-- ==== Sys2Proof/Word.lean ====
section
/-! DEFINITION. The word types of the HFC. -/

namespace Sys2Proof

/-- A 32-bit command word or register value (R22, R70). Bit 0 is the least significant (R8). -/
abbrev Word := BitVec 32

/-- One byte of a stream, of a path or of the length table (R65). -/
abbrev Byte := BitVec 8

/-- A symbol: bytes 0..255 and the sentinel 256 (R6 `NSYM` = 257, R11). -/
abbrev Symbol := Fin 257

/-- A bit string, first bit first in emission order (R8). -/
abbrev Bits := List Bool

/-- `SENT` (R6): the sentinel symbol 256. -/
abbrev sentinel : Symbol := 256

end Sys2Proof
end

