-- ==== Sys2Proof/Syntax.lean ====
section
/-! DEFINITION. The commands of HFC-cmd-1: one constructor per row of the opcode map (R75).

An operand has the width of its field in the command word (R70, R71, R72): a symbol operand of classes S and SV is the
nine-bit field `A`, a byte of class B is `A[7:0]`, a bit of class T is `A[0]`, a value of class SV is the field `V`. -/

namespace Sys2Proof

inductive Instr where
  -- control (40_control.md)
  | nop
  | srst
  -- BitReader and BitWriter (41_bitstream.md)
  | brOpen
  | brGet
  | brClose
  | bwPut (t : Bool)
  | bwClose
  -- frequency counter (42_frequency.md)
  | freqClr
  | freqInc (a : BitVec 9)
  | freqGet (a : BitVec 9)
  -- tree builder (43_tree_builder.md)
  | treeBuild
  -- canonicalizer (44_canonical.md)
  | lenFromTree
  | treeFromLen
  | lenGet (a : BitVec 9)
  | lenSet (a : BitVec 9) (v : Byte)
  | lenClr
  | lenEmit
  | lenLoad
  -- code table and encoder (45_encoder.md)
  | codeGen
  | codeLen (a : BitVec 9)
  | codeBit (a : BitVec 9) (v : Byte)
  | encSym (a : BitVec 9)
  | encEnd
  -- decoder (46_decoder.md)
  | decSym
  -- archive framer, write path (47_archive_write.md)
  | awBegin
  | awPbyte (b : Byte)
  | awPend
  | awMend
  | awDir
  | awFile
  | awCount (b : Byte)
  | awFilehdr
  | awSym (b : Byte)
  | awFend
  | awEnd
  -- archive framer, read path (48_archive_read.md)
  | arMagic
  | arMbyte
  | arSkipm
  | arEntry
  | arPbyte
  | arFilehdr
  | arSym
  | arEnd
  | frAbort
  deriving DecidableEq, Repr

end Sys2Proof
end

