-- ==== Sys2Proof/Decode.lean ====
section
/-! DEFINITION. Decoding a command word (R70 to R76), total on all 2^32 words and rejecting by name, and after it the
encoder, written from the same rules. -/

namespace Sys2Proof

/-! ## Fields of a command word (R70) -/

/-- `OP`, bits 7:0. -/
def opField (w : Word) : Byte := w.extractLsb' 0 8

/-- `A`, bits 16:8. -/
def aField (w : Word) : BitVec 9 := w.extractLsb' 8 9

/-- `V`, bits 24:17. -/
def vField (w : Word) : Byte := w.extractLsb' 17 8

/-! ## Operand classes (R73) -/

/-- The five operand classes of R73. -/
inductive OpClass where
  | n | s | b | t | sv
  deriving DecidableEq, Repr

/-- `mask_k` of R73: a word is well formed for an opcode `op` of the class when `w AND mask = op`. -/
def OpClass.mask : OpClass → Word
  | .n => 0xFFFFFFFF#32
  | .s => 0xFFFE00FF#32
  | .b => 0xFFFF00FF#32
  | .t => 0xFFFFFEFF#32
  | .sv => 0xFE0000FF#32

/-- Classes whose operand `A` is a symbol (R71). -/
def OpClass.takesSymbol : OpClass → Bool
  | .s => true
  | .sv => true
  | .n => false
  | .b => false
  | .t => false

/-! ## The opcode map (R75) -/

/-- A row of the opcode map: what an opcode names, waiting for the operands of its class. -/
inductive Form where
  | n (i : Instr)
  | s (f : BitVec 9 → Instr)
  | b (f : Byte → Instr)
  | t (f : Bool → Instr)
  | sv (f : BitVec 9 → Byte → Instr)

/-- The operand class of a row. -/
def Form.opClass : Form → OpClass
  | .n _ => .n
  | .s _ => .s
  | .b _ => .b
  | .t _ => .t
  | .sv _ => .sv

/-- The command a row names when its operands are read from the word `w` (R71, R72). -/
def Form.build (w : Word) : Form → Instr
  | .n i => i
  | .s f => f (aField w)
  | .b f => f ((aField w).setWidth 8)
  | .t f => f ((aField w).getLsbD 0)
  | .sv f => f (aField w) (vField w)

/-- The opcode map of R75, by opcode number; every other opcode is illegal (R76). -/
def formOf : Nat → Option Form
  | 0x00 => some (.n .nop)
  | 0x01 => some (.n .srst)
  | 0x10 => some (.n .brOpen)
  | 0x11 => some (.n .brGet)
  | 0x12 => some (.n .brClose)
  | 0x18 => some (.t .bwPut)
  | 0x19 => some (.n .bwClose)
  | 0x20 => some (.n .freqClr)
  | 0x21 => some (.s .freqInc)
  | 0x22 => some (.s .freqGet)
  | 0x30 => some (.n .treeBuild)
  | 0x40 => some (.n .lenFromTree)
  | 0x41 => some (.n .treeFromLen)
  | 0x42 => some (.s .lenGet)
  | 0x43 => some (.sv .lenSet)
  | 0x44 => some (.n .lenClr)
  | 0x45 => some (.n .lenEmit)
  | 0x46 => some (.n .lenLoad)
  | 0x50 => some (.n .codeGen)
  | 0x51 => some (.s .codeLen)
  | 0x52 => some (.sv .codeBit)
  | 0x53 => some (.s .encSym)
  | 0x54 => some (.n .encEnd)
  | 0x60 => some (.n .decSym)
  | 0x70 => some (.n .awBegin)
  | 0x71 => some (.b .awPbyte)
  | 0x72 => some (.n .awPend)
  | 0x73 => some (.n .awMend)
  | 0x74 => some (.n .awDir)
  | 0x75 => some (.n .awFile)
  | 0x76 => some (.b .awCount)
  | 0x77 => some (.n .awFilehdr)
  | 0x78 => some (.b .awSym)
  | 0x79 => some (.n .awFend)
  | 0x7A => some (.n .awEnd)
  | 0x80 => some (.n .arMagic)
  | 0x81 => some (.n .arMbyte)
  | 0x82 => some (.n .arSkipm)
  | 0x83 => some (.n .arEntry)
  | 0x84 => some (.n .arPbyte)
  | 0x85 => some (.n .arFilehdr)
  | 0x86 => some (.n .arSym)
  | 0x87 => some (.n .arEnd)
  | 0x8F => some (.n .frAbort)
  | _ => none

/-! ## Decoding (R74) -/

/-- Why a word names no command that runs (R74). -/
inductive DecodeError where
  /-- `ILLEGAL_CMD(w)`: an opcode R75 does not list, or a bit outside the free bits of its class. -/
  | illegalCmd (w : Word)
  /-- `SYMBOL_RANGE(a)`: a symbol operand 257..511. -/
  | symbolRange (a : BitVec 9)
  deriving DecidableEq, Repr

/-- `decode` of R74, its three checks in its order. -/
def decode (w : Word) : Except DecodeError Instr :=
  match formOf (opField w).toNat with
  | none => .error (.illegalCmd w)
  | some f =>
    if w &&& f.opClass.mask ≠ (opField w).setWidth 32 then .error (.illegalCmd w)
    else if f.opClass.takesSymbol = true ∧ 256 < (aField w).toNat then .error (.symbolRange (aField w))
    else .ok (f.build w)

/-- The command of the host's table numbering: the word is the `nbits` bits `w`, the bits above them 0. -/
def decodeTableWord (nbits w : Nat) : Option Instr :=
  match decode (BitVec.ofNat 32 (w % 2 ^ nbits)) with
  | .ok i => some i
  | .error _ => none

/-! ## Encoding (R77) -/

/-- R77: the word is `(v << 17) | (a << 8) | op`. -/
def packWord (op : Byte) (a : BitVec 9) (v : Byte) : Word :=
  (v.setWidth 32 <<< 17) ||| (a.setWidth 32 <<< 8) ||| op.setWidth 32

/-- The opcode of a command (R75). -/
def Instr.opcode : Instr → Byte
  | .nop => 0x00#8
  | .srst => 0x01#8
  | .brOpen => 0x10#8
  | .brGet => 0x11#8
  | .brClose => 0x12#8
  | .bwPut _ => 0x18#8
  | .bwClose => 0x19#8
  | .freqClr => 0x20#8
  | .freqInc _ => 0x21#8
  | .freqGet _ => 0x22#8
  | .treeBuild => 0x30#8
  | .lenFromTree => 0x40#8
  | .treeFromLen => 0x41#8
  | .lenGet _ => 0x42#8
  | .lenSet _ _ => 0x43#8
  | .lenClr => 0x44#8
  | .lenEmit => 0x45#8
  | .lenLoad => 0x46#8
  | .codeGen => 0x50#8
  | .codeLen _ => 0x51#8
  | .codeBit _ _ => 0x52#8
  | .encSym _ => 0x53#8
  | .encEnd => 0x54#8
  | .decSym => 0x60#8
  | .awBegin => 0x70#8
  | .awPbyte _ => 0x71#8
  | .awPend => 0x72#8
  | .awMend => 0x73#8
  | .awDir => 0x74#8
  | .awFile => 0x75#8
  | .awCount _ => 0x76#8
  | .awFilehdr => 0x77#8
  | .awSym _ => 0x78#8
  | .awFend => 0x79#8
  | .awEnd => 0x7A#8
  | .arMagic => 0x80#8
  | .arMbyte => 0x81#8
  | .arSkipm => 0x82#8
  | .arEntry => 0x83#8
  | .arPbyte => 0x84#8
  | .arFilehdr => 0x85#8
  | .arSym => 0x86#8
  | .arEnd => 0x87#8
  | .frAbort => 0x8F#8

/-- The field `A` of a command (R71). -/
def Instr.aOperand : Instr → BitVec 9
  | .freqInc a => a
  | .freqGet a => a
  | .lenGet a => a
  | .lenSet a _ => a
  | .codeLen a => a
  | .codeBit a _ => a
  | .encSym a => a
  | .bwPut t => (BitVec.ofBool t).setWidth 9
  | .awPbyte b => b.setWidth 9
  | .awCount b => b.setWidth 9
  | .awSym b => b.setWidth 9
  | .nop | .srst | .brOpen | .brGet | .brClose | .bwClose | .freqClr | .treeBuild | .lenFromTree
  | .treeFromLen | .lenClr | .lenEmit | .lenLoad | .codeGen | .encEnd | .decSym | .awBegin | .awPend
  | .awMend | .awDir | .awFile | .awFilehdr | .awFend | .awEnd | .arMagic | .arMbyte | .arSkipm | .arEntry
  | .arPbyte | .arFilehdr | .arSym | .arEnd | .frAbort => 0#9

/-- The field `V` of a command (R72). -/
def Instr.vOperand : Instr → Byte
  | .lenSet _ v => v
  | .codeBit _ v => v
  | .nop | .srst | .brOpen | .brGet | .brClose | .bwClose | .freqClr | .treeBuild | .lenFromTree
  | .treeFromLen | .lenClr | .lenEmit | .lenLoad | .codeGen | .encEnd | .decSym | .awBegin | .awPend
  | .awMend | .awDir | .awFile | .awFilehdr | .awFend | .awEnd | .arMagic | .arMbyte | .arSkipm | .arEntry
  | .arPbyte | .arFilehdr | .arSym | .arEnd | .frAbort | .bwPut _ | .freqInc _ | .freqGet _ | .lenGet _
  | .codeLen _ | .encSym _ | .awPbyte _ | .awCount _ | .awSym _ => 0x00#8

/-- The command word of a command (R77). -/
def encode (i : Instr) : Word := packWord i.opcode i.aOperand i.vOperand

/-! ## The opcode map as a list of rows, for statements about the whole map -/

/-- A row of R75. -/
structure OpRow where
  op       : Byte
  mnemonic : String
  opClass  : OpClass
  deriving DecidableEq, Repr

/-- The rows of R75, in the table's order. -/
def opcodeMap : List OpRow :=
  [⟨0x00#8, "NOP", .n⟩, ⟨0x01#8, "SRST", .n⟩] ++
  [⟨0x10#8, "BR_OPEN", .n⟩, ⟨0x11#8, "BR_GET", .n⟩, ⟨0x12#8, "BR_CLOSE", .n⟩, ⟨0x18#8, "BW_PUT", .t⟩,
   ⟨0x19#8, "BW_CLOSE", .n⟩] ++
  [⟨0x20#8, "FREQ_CLR", .n⟩, ⟨0x21#8, "FREQ_INC", .s⟩, ⟨0x22#8, "FREQ_GET", .s⟩, ⟨0x30#8, "TREE_BUILD", .n⟩] ++
  [⟨0x40#8, "LEN_FROM_TREE", .n⟩, ⟨0x41#8, "TREE_FROM_LEN", .n⟩, ⟨0x42#8, "LEN_GET", .s⟩, ⟨0x43#8, "LEN_SET", .sv⟩,
   ⟨0x44#8, "LEN_CLR", .n⟩, ⟨0x45#8, "LEN_EMIT", .n⟩, ⟨0x46#8, "LEN_LOAD", .n⟩] ++
  [⟨0x50#8, "CODE_GEN", .n⟩, ⟨0x51#8, "CODE_LEN", .s⟩, ⟨0x52#8, "CODE_BIT", .sv⟩, ⟨0x53#8, "ENC_SYM", .s⟩,
   ⟨0x54#8, "ENC_END", .n⟩, ⟨0x60#8, "DEC_SYM", .n⟩] ++
  [⟨0x70#8, "AW_BEGIN", .n⟩, ⟨0x71#8, "AW_PBYTE", .b⟩, ⟨0x72#8, "AW_PEND", .n⟩, ⟨0x73#8, "AW_MEND", .n⟩,
   ⟨0x74#8, "AW_DIR", .n⟩, ⟨0x75#8, "AW_FILE", .n⟩, ⟨0x76#8, "AW_COUNT", .b⟩, ⟨0x77#8, "AW_FILEHDR", .n⟩,
   ⟨0x78#8, "AW_SYM", .b⟩, ⟨0x79#8, "AW_FEND", .n⟩, ⟨0x7A#8, "AW_END", .n⟩] ++
  [⟨0x80#8, "AR_MAGIC", .n⟩, ⟨0x81#8, "AR_MBYTE", .n⟩, ⟨0x82#8, "AR_SKIPM", .n⟩, ⟨0x83#8, "AR_ENTRY", .n⟩,
   ⟨0x84#8, "AR_PBYTE", .n⟩, ⟨0x85#8, "AR_FILEHDR", .n⟩, ⟨0x86#8, "AR_SYM", .n⟩, ⟨0x87#8, "AR_END", .n⟩,
   ⟨0x8F#8, "FR_ABORT", .n⟩]

/-- The mnemonic of a command (R75). -/
def Instr.mnemonic : Instr → String
  | .nop => "NOP"
  | .srst => "SRST"
  | .brOpen => "BR_OPEN"
  | .brGet => "BR_GET"
  | .brClose => "BR_CLOSE"
  | .bwPut _ => "BW_PUT"
  | .bwClose => "BW_CLOSE"
  | .freqClr => "FREQ_CLR"
  | .freqInc _ => "FREQ_INC"
  | .freqGet _ => "FREQ_GET"
  | .treeBuild => "TREE_BUILD"
  | .lenFromTree => "LEN_FROM_TREE"
  | .treeFromLen => "TREE_FROM_LEN"
  | .lenGet _ => "LEN_GET"
  | .lenSet _ _ => "LEN_SET"
  | .lenClr => "LEN_CLR"
  | .lenEmit => "LEN_EMIT"
  | .lenLoad => "LEN_LOAD"
  | .codeGen => "CODE_GEN"
  | .codeLen _ => "CODE_LEN"
  | .codeBit _ _ => "CODE_BIT"
  | .encSym _ => "ENC_SYM"
  | .encEnd => "ENC_END"
  | .decSym => "DEC_SYM"
  | .awBegin => "AW_BEGIN"
  | .awPbyte _ => "AW_PBYTE"
  | .awPend => "AW_PEND"
  | .awMend => "AW_MEND"
  | .awDir => "AW_DIR"
  | .awFile => "AW_FILE"
  | .awCount _ => "AW_COUNT"
  | .awFilehdr => "AW_FILEHDR"
  | .awSym _ => "AW_SYM"
  | .awFend => "AW_FEND"
  | .awEnd => "AW_END"
  | .arMagic => "AR_MAGIC"
  | .arMbyte => "AR_MBYTE"
  | .arSkipm => "AR_SKIPM"
  | .arEntry => "AR_ENTRY"
  | .arPbyte => "AR_PBYTE"
  | .arFilehdr => "AR_FILEHDR"
  | .arSym => "AR_SYM"
  | .arEnd => "AR_END"
  | .frAbort => "FR_ABORT"

/-- The operand class of a command (R75): read off the shape of its operands. -/
def Instr.opClass : Instr → OpClass
  | .bwPut _ => .t
  | .freqInc _ => .s
  | .freqGet _ => .s
  | .lenGet _ => .s
  | .codeLen _ => .s
  | .encSym _ => .s
  | .lenSet _ _ => .sv
  | .codeBit _ _ => .sv
  | .awPbyte _ => .b
  | .awCount _ => .b
  | .awSym _ => .b
  | .nop | .srst | .brOpen | .brGet | .brClose | .bwClose | .freqClr | .treeBuild | .lenFromTree
  | .treeFromLen | .lenClr | .lenEmit | .lenLoad | .codeGen | .encEnd | .decSym | .awBegin | .awPend
  | .awMend | .awDir | .awFile | .awFilehdr | .awFend | .awEnd | .arMagic | .arMbyte | .arSkipm | .arEntry
  | .arPbyte | .arFilehdr | .arSym | .arEnd | .frAbort => .n

/-- The row of the opcode map a command belongs to. -/
def Instr.row (i : Instr) : OpRow := ⟨i.opcode, i.mnemonic, i.opClass⟩

end Sys2Proof
end

