-- ==== Sys2Proof/Config.lean ====
section
/-! DEFINITION. The implementation parameters of R6. They are fixed for the life of the hardware (R20); the model
carries them in State (`cfg`) so that a statement about every state is a statement about every configuration. -/

namespace Sys2Proof

/-- The OPEN parameters of R6, and the window base of R67. -/
structure Config where
  /-- `CNT_W`, the width of a frequency counter in bits. -/
  cntW     : Nat
  /-- `MAGIC0`, archive byte 0. -/
  magic0   : Byte
  /-- `MAGIC1`, archive byte 1. -/
  magic1   : Byte
  /-- `TAG_DIR`, the directory entry tag. -/
  tagDir   : Byte
  /-- `TAG_FILE`, the file entry tag. -/
  tagFile  : Byte
  /-- `MEND`, the manifest terminator. -/
  mend     : Byte
  /-- `IN_DEPTH`; "no rule depends on" it (R6, R52), and nothing in the model reads it. -/
  inDepth  : Nat
  /-- `OUT_DEPTH`; "no rule depends on" it (R6, R55), and nothing in the model reads it. -/
  outDepth : Nat
  /-- `HFC_BASE`: the window's base on the host bus; the model's register offsets are relative to it (R67). -/
  hfcBase  : Nat
  deriving DecidableEq, Repr

/-- `CNT_MAX` = 2^`CNT_W` − 1 (R6). -/
def Config.cntMax (c : Config) : Nat := 2 ^ c.cntW - 1

/-- The constraints R6 puts on the parameters. -/
abbrev Config.Valid (c : Config) : Prop :=
  1 ≤ c.cntW ∧ c.cntW ≤ 32 ∧ c.tagFile ≠ c.tagDir ∧ c.mend ≠ 0x00#8 ∧ 1 ≤ c.inDepth ∧ 1 ≤ c.outDepth

/-- REF, the reference configuration of R6. The depths and the base, which REF leaves without a value and no rule
reads, are a DESIGN CHOICE (log entry 2). -/
def Config.reference : Config where
  cntW := 31
  magic0 := 0x48#8
  magic1 := 0x46#8
  tagDir := 0x44#8
  tagFile := 0x46#8
  mend := 0xFF#8
  inDepth := 1
  outDepth := 1
  hfcBase := 0

end Sys2Proof
end

