-- ==== Sys2Proof/Machine/State.lean ====
section
/-! DEFINITION. The state of the HFC (R20), the reasons a step can stop, and the state after reset (R41, R270, R272). -/

namespace Sys2Proof.Machine

/-- R30: a tree is `Leaf(s)` or `Node(l, r)`. -/
inductive CodeTree where
  | leaf (s : Symbol)
  | node (l r : CodeTree)
  deriving DecidableEq, Repr

/-- R32: a code table gives each symbol a bit string, or nothing (`absent`). -/
abbrev CodeTable := Vector (Option Bits) 257

/-- R31: the length table. -/
abbrev LenTable := Vector Byte 257

/-- R29: the frequency table; a counter is a natural number (log entry 14), kept at or below `CNT_MAX`. -/
abbrev FreqTable := Vector Nat 257

/-- R34: the BitReader state `BR = (buf, rem, closed)`. -/
structure BitReader where
  buf    : Byte
  rem    : Nat
  closed : Bool
  deriving DecidableEq, Repr

/-- R35: the framer phase `FPH`. -/
inductive Phase where
  | idle | wManifest | wMpath | wBlocks | wDpath | wFpath | wFcount | wPayload
  | rManifest | rEntry | rDpath | rFpath | rLens | rPayload | rDone | fatal
  deriving DecidableEq, Repr

/-- R250: the error codes, `NONE` first. `badBit` is reserved and never raised (R182). -/
inductive ErrCode where
  | noError | illegalCmd | sequence | symbolRange | counterOverflow | noTree | noCode | indexRange
  | lengthOverflow | nonCanonical | truncated | badMagic | badTag | badPathByte | badBit
  deriving DecidableEq, Repr

/-- What the host can do to the core (R12, R22, R23, R52, R55, R270). -/
inductive HostMove where
  /-- A bus read of `width` bits at window offset `off`. -/
  | read (width off : Nat)
  /-- A bus write of `width` bits at window offset `off`. -/
  | write (width off : Nat) (v : Word)
  /-- Append one byte to the IN stream. -/
  | push (b : Byte)
  /-- Set the end-of-stream mark of IN. -/
  | setEos
  /-- Take one byte from the front of OUT. -/
  | drain
  /-- Hardware reset. -/
  | hardReset
  deriving DecidableEq, Repr

/-- One move of one of the two agents of R12. -/
inductive Move where
  | core
  | host (m : HostMove)
  deriving DecidableEq, Repr

/-- The state of the HFC: the core's state and the two streams (R20), the configuration it was built with (R6), and the
model's own record of the second agent, the host (R12; log entry 3). -/
structure State where
  /-- The parameters of R6; no step changes them (R20). -/
  cfg      : Config
  /-- The words written to `CMD` that have not completed, oldest first: the first is the word the core runs next or is
  held on, the others are held by the interface (R23). -/
  cmdq     : List Word
  /-- `STATUS.BUSY` (R24). -/
  busy     : Bool
  /-- `STATUS.ERR` (R24). -/
  err      : Bool
  /-- `STATUS.END` (R24). -/
  endf     : Bool
  /-- `STATUS.SENT` (R24). -/
  sent     : Bool
  /-- `RESULT` (R25). -/
  result   : Word
  /-- `ERRCODE` (R26). -/
  errcode  : ErrCode
  /-- `FREQ` (R29). -/
  freq     : FreqTable
  /-- `TREE` (R30). -/
  tree     : Option CodeTree
  /-- `LEN` (R31). -/
  len      : LenTable
  /-- `CODE` (R32). -/
  code     : Option CodeTable
  /-- `BW.acc` (R33); `BW.cnt` is its length. -/
  bw       : Bits
  /-- `BR` (R34). -/
  br       : BitReader
  /-- `FPH` (R35). -/
  fph      : Phase
  /-- IN: `q` (R52), first byte to be read first. -/
  inq      : List Byte
  /-- IN: `eos` (R52). -/
  eos      : Bool
  /-- OUT: the bytes emitted and not yet drained, first emitted first (R55). -/
  out      : List Byte
  /-- MODEL'S OWN: the moves still to come; with none left, the core moves. -/
  schedule : List Move
  /-- MODEL'S OWN: the values the host's register reads returned, oldest first. -/
  reads    : List Word
  /-- MODEL'S OWN: the bytes the host has drained from OUT, oldest first. -/
  received : List Byte
  deriving DecidableEq, Repr

/-- Why the machine stops. An error of a command is no fault: it is reported and the core goes on (R252). Each of these
names a case the spec says cannot arise. -/
inductive Fault where
  /-- Raised by `AR_SYM` in phase `R_PAYLOAD` with `TREE = none`, which R229 says never holds. Safe: the model stops
  in a state no run from reset reaches (log entry 11). -/
  | payloadWithoutTree
  /-- Raised by `AW_FILEHDR` when the tree cannot be built or rebuilt, which R133 and R200 say never happens. Safe: the
  model stops where the spec has no case (log entry 11). -/
  | headerNotRebuilt
  deriving DecidableEq, Repr

/-- Why a move has no meaning. No command's meaning refuses; the host's moves outside the interface do. -/
inductive Refusal where
  /-- An instruction `exec` gives no meaning. Nothing raises it: every instruction has its meaning. Safe. -/
  | notModelled (mnemonic : String)
  /-- A register access that is not 32 bits wide, not at a multiple of 4, or outside the 64-byte window, by the host
  (R61, "the model refuses it"). Safe. -/
  | badAccess
  /-- An append to IN after `eos`, by the host (R52; 93_implementation_defined.md I15). Safe. -/
  | appendAfterEos
  /-- A second setting of `eos` with no restart between, by the host (R52 "once"; log entry 9). Safe. -/
  | eosSetTwice
  deriving DecidableEq, Repr

/-- The state after hardware reset of a block built with configuration `c` (R41, R270, R272). -/
def State.resetWith (c : Config) : State where
  cfg := c
  cmdq := []
  busy := false
  err := false
  endf := false
  sent := false
  result := 0#32
  errcode := .noError
  freq := Vector.replicate 257 0
  tree := none
  len := Vector.replicate 257 0x00#8
  code := none
  bw := []
  br := ⟨0x00#8, 0, true⟩
  fph := .idle
  inq := []
  eos := false
  out := []
  schedule := []
  reads := []
  received := []

/-- The machine right after reset, in the reference configuration REF of R6 (log entry 1). -/
def State.reset : State := State.resetWith Config.reference

end Sys2Proof.Machine
end

