-- ==== Sys2Proof/Machine/Ops.lean ====
section
/-! DEFINITION. The shared operations of the commands: table access, the IN and OUT streams, the start and the end of
a command, and reporting an error (the machine's way of taking an exception: it saves no program counter and changes
no mode, R259). -/

namespace Sys2Proof.Machine

/-! ## Symbols and tables -/

/-- The symbols 0..256 in ascending order (R9 "`for s in 0..256` runs in ascending order"). -/
def allSymbols : List Symbol := List.finRange 257

/-- The table whose entry at each symbol is the value of `f`. -/
def tabulate {α : Type} (f : Symbol → α) : Vector α 257 :=
  ⟨(allSymbols.map f).toArray, by simp [allSymbols]⟩

/-- Read a table entry (R9). -/
def entry {α : Type} (t : Vector α 257) (s : Symbol) : α := t[s.val]'s.isLt

/-- Write a table entry (R9). -/
def setEntry {α : Type} (t : Vector α 257) (s : Symbol) (v : α) : Vector α 257 := t.set s.val v s.isLt

/-- The symbol of a byte (R11: symbols are "bytes 0–255 plus the sentinel 256"). -/
def byteSymbol (b : Byte) : Symbol := ⟨b.toNat, by have := b.isLt; omega⟩

/-- A symbol as a register value. -/
def symbolWord (s : Symbol) : Word := BitVec.ofNat 32 s.val

/-- Every counter 0 (R29). -/
def freqZero : FreqTable := Vector.replicate 257 0

/-- Every length 0 (R31). -/
def lenZero : LenTable := Vector.replicate 257 0x00#8

/-! ## Start, end and hold of a command -/

/-- R251: the command-start clearing. -/
def State.accept (s : State) : State :=
  { s with busy := true, err := false, endf := false, sent := false, errcode := .noError }

/-- R251: the rule has ended, with or without an error. -/
def State.complete (s : State) : State := { s with busy := false }

/-- R57, R58: the command holds; `BUSY` is 1 and every other register shows its value from before the command. -/
def State.wait (s : State) : State := { s with busy := true }

/-- How the pseudocode of a rule ends. -/
inductive Ending where
  /-- The rule ended, with or without an error. -/
  | done (s : State)
  /-- It reached `HOLD` (R53, R58). -/
  | hold
  /-- It reached a case the spec says cannot arise. -/
  | stuck (r : Fault)
  deriving DecidableEq, Repr

/-- One command as one atomic step (R57): the command-start clearing, the rule's pseudocode, the end of the command. A
command that reaches `HOLD` leaves everything but `BUSY` as it was before it started (R57, R58). -/
def command (rule : State → Ending) (s : State) : Host.Outcome State Fault Refusal :=
  match rule s.accept with
  | .done t => .next t.complete
  | .hold => .next s.wait
  | .stuck r => .fault r

/-! ## Reporting an error -/

/-- R252: what `raise E(info)` writes. -/
def State.report (s : State) (e : ErrCode) (info : Word) : State :=
  { s with result := info, errcode := e, err := true }

/-- R252: `raise E(info)`; no further statement of the rule runs. -/
def raise (e : ErrCode) (info : Word) (s : State) : Ending := .done (s.report e info)

/-- R253: `raise_fatal E(info)`. -/
def raiseFatal (e : ErrCode) (info : Word) (s : State) : Ending := raise e info { s with fph := .fatal }

/-- R254: `raise_entry E(info)`. -/
def raiseEntry (e : ErrCode) (info : Word) (s : State) : Ending := raise e info { s with fph := .rEntry }

/-- `STATUS.END <- 1`. -/
def State.setEnd (s : State) : State := { s with endf := true }

/-- `RESULT <- v`. -/
def State.withResult (s : State) (v : Word) : State := { s with result := v }

/-- The info value of a stream that ended too soon, outside the length tables (R250). -/
def endInfo : Word := 0x200#32

/-! ## The IN stream (R52 to R54) -/

/-- What `InRead()` returns. -/
inductive InByte where
  | byte (b : Byte) (s : State)
  | atEnd
  | hold
  deriving DecidableEq, Repr

/-- R53: `InRead()`. -/
def inRead (s : State) : InByte :=
  match s.inq with
  | b :: q => .byte b { s with inq := q }
  | [] => if s.eos = true then .atEnd else .hold

/-- R54: restart IN. -/
def State.restartIn (s : State) : State := { s with inq := [], eos := false }

/-- What reading several bytes of IN gives. -/
inductive InBytes where
  /-- All were read. -/
  | full (bs : List Byte) (s : State)
  /-- The stream ended after `n` of them. -/
  | short (n : Nat) (s : State)
  | hold
  deriving DecidableEq, Repr

/-- Read `n` more bytes by `InRead`, `got` having been read already, latest first. -/
def inReadMany : Nat → List Byte → State → InBytes
  | 0, got, s => .full got.reverse s
  | n + 1, got, s =>
    match inRead s with
    | .byte b t => inReadMany n (b :: got) t
    | .atEnd => .short got.length s
    | .hold => .hold

/-- R151, R228: read the 257 bytes of a length table. -/
def inReadTable (s : State) : InBytes := inReadMany 257 [] s

/-- R152: the length table whose entry `i` is byte `i`. -/
def tableOfBytes (bs : List Byte) : LenTable := tabulate fun s => bs.getD s.val 0x00#8

/-- What reading IN up to a byte gives. -/
inductive InScan where
  /-- The byte was read; it and all before it are consumed. -/
  | found (s : State)
  /-- The stream ended first; all of it is consumed. -/
  | atEnd (s : State)
  | hold
  deriving DecidableEq, Repr

/-- R224's loop: `InRead` until it returns the byte `m`, at most `fuel` times. -/
def inReadUntil (m : Byte) : Nat → State → InScan
  | 0, _ => .hold
  | n + 1, s =>
    match inRead s with
    | .byte b t => if b = m then .found t else inReadUntil m n t
    | .atEnd => .atEnd s
    | .hold => .hold

/-- R224's loop with as many reads as the queue can need: every byte in it, and one more. -/
def inReadPast (m : Byte) (s : State) : InScan := inReadUntil m (s.inq.length + 1) s

/-! ## The OUT stream (R55) -/

/-- R55: `OutWrite(b)`. -/
def State.outWrite (s : State) (b : Byte) : State := { s with out := s.out ++ [b] }

/-- `OutWrite` of each byte of a list, in order. -/
def State.outWriteAll (s : State) (bs : List Byte) : State := { s with out := s.out ++ bs }

/-! ## The framer phase (R35) -/

/-- `FPH <- p`. -/
def State.toPhase (s : State) (p : Phase) : State := { s with fph := p }

end Sys2Proof.Machine
end

