-- ==== Sys2Proof/Machine/Flags.lean ====
section
/-! DEFINITION. The register views: `STATUS` with its mirrors (R24), `ERRCODE` (R26), `BSTATE` (R27), the hardwired
configuration registers (R28), and the flags a command writes. -/

namespace Sys2Proof.Machine

/-- The 4-bit value of a phase (R35). -/
def Phase.code : Phase → BitVec 4
  | .idle => 0#4
  | .wManifest => 1#4
  | .wMpath => 2#4
  | .wBlocks => 3#4
  | .wDpath => 4#4
  | .wFpath => 5#4
  | .wFcount => 6#4
  | .wPayload => 7#4
  | .rManifest => 8#4
  | .rEntry => 9#4
  | .rDpath => 10#4
  | .rFpath => 11#4
  | .rLens => 12#4
  | .rPayload => 13#4
  | .rDone => 14#4
  | .fatal => 15#4

/-- A phase as the info value of `SEQUENCE` (R250). -/
def Phase.word (p : Phase) : Word := p.code.setWidth 32

/-- The number of an error code (R250). -/
def ErrCode.code : ErrCode → Byte
  | .noError => 0x00#8
  | .illegalCmd => 0x01#8
  | .sequence => 0x02#8
  | .symbolRange => 0x03#8
  | .counterOverflow => 0x04#8
  | .noTree => 0x05#8
  | .noCode => 0x06#8
  | .indexRange => 0x07#8
  | .lengthOverflow => 0x08#8
  | .nonCanonical => 0x09#8
  | .truncated => 0x0A#8
  | .badMagic => 0x0B#8
  | .badTag => 0x0C#8
  | .badPathByte => 0x0D#8
  | .badBit => 0x0E#8

/-- `STATUS.FATAL` (R24): 1 exactly when `FPH = FATAL`. -/
def State.fatalFlag (s : State) : Bool := s.fph == .fatal

/-- `STATUS.TV` (R24): 1 exactly when `TREE` holds a tree. -/
def State.tvFlag (s : State) : Bool := s.tree.isSome

/-- `STATUS.CV` (R24): 1 exactly when `CODE` holds a code table. -/
def State.cvFlag (s : State) : Bool := s.code.isSome

/-- A flag as one bit. -/
def flagBit (b : Bool) : BitVec 1 := BitVec.ofBool b

/-- `STATUS` (R24): 31:16 reserved, `FPH` 15:12, 11:7 reserved, `CV`, `TV`, `SENT`, `END`, `FATAL`, `ERR`, `BUSY`. -/
def State.statusWord (s : State) : Word :=
  0#16 ++ s.fph.code ++ 0#5 ++ flagBit s.cvFlag ++ flagBit s.tvFlag ++ flagBit s.sent ++ flagBit s.endf ++
    flagBit s.fatalFlag ++ flagBit s.err ++ flagBit s.busy

/-- `ERRCODE` (R26): bits 31:8 read 0. -/
def State.errcodeWord (s : State) : Word := s.errcode.code.setWidth 32

/-- A bit string read as a binary number, first bit most significant (R33). -/
def bitsValue (x : Bits) : Nat := x.foldl (fun n b => 2 * n + b.toNat) 0

/-- `BSTATE` (R27): 31:29 reserved, `BR_CLOSED` 28, `BR_REM` 27:24, `BR_BUF` 23:16, 15:11 reserved, `BW_CNT` 10:8,
`BW_ACC` 7:0. -/
def State.bstateWord (s : State) : Word :=
  0#3 ++ flagBit s.br.closed ++ BitVec.ofNat 4 s.br.rem ++ s.br.buf ++ 0#5 ++ BitVec.ofNat 3 s.bw.length ++
    BitVec.ofNat 8 (bitsValue s.bw)

/-- `CONFIG0` (R28): `TAG_FILE`, `TAG_DIR`, `MAGIC1`, `MAGIC0`, from the most significant byte down. -/
def config0Word (c : Config) : Word := c.tagFile ++ c.tagDir ++ c.magic1 ++ c.magic0

/-- `CONFIG1` (R28): 31:14 zero, `CNT_W` 13:8, `MEND` 7:0. -/
def config1Word (c : Config) : Word := 0#18 ++ BitVec.ofNat 6 c.cntW ++ c.mend

/-- `CNTMAX` (R28). -/
def cntMaxWord (c : Config) : Word := BitVec.ofNat 32 c.cntMax

/-- `STATUS.SENT <- 1` when the symbol is the sentinel (R24, R181, R229). -/
def State.markSentinel (s : State) (sym : Symbol) : State :=
  if sym = sentinel then { s with sent := true } else s

end Sys2Proof.Machine
end

