-- ==== Sys2Proof/Machine/Operands.lean ====
section
/-! DEFINITION. The operand forms (R71, R72) as the meanings use them, and the phase check of the framer commands. -/

namespace Sys2Proof.Machine

/-- A symbol operand (classes S and SV): above 256 the command raises `SYMBOL_RANGE` with the operand as info (R71,
R74, R250). Decoding raises it first (R74); a meaning applied to such an operand raises the same (log entry 15). -/
def withSymbol (a : BitVec 9) (s : State) (rule : Symbol → Ending) : Ending :=
  if h : a.toNat < 257 then rule ⟨a.toNat, h⟩ else raise .symbolRange (a.setWidth 32) s

/-- A byte operand as a symbol (class B, R71). -/
abbrev withByte (b : Byte) (rule : Symbol → Ending) : Ending := rule (byteSymbol b)

/-- A byte as a register value, zero-extended. -/
def byteWord (b : Byte) : Word := b.setWidth 32

/-- The phase check of a framer command: outside the phases its rule lists it raises `SEQUENCE` with the current `FPH`
and changes nothing else (47_archive_write.md section 2, R221). -/
def inPhase (ps : List Phase) (s : State) (rule : Ending) : Ending :=
  if s.fph ∈ ps then rule else raise .sequence s.fph.word s

end Sys2Proof.Machine
end

