-- ==== Sys2Proof/Machine/Canonical.lean ====
section
/-! DEFINITION. The canonical length serializer and the tree reconstructor (44_canonical.md). -/

namespace Sys2Proof.Machine

/-! ## Tree to lengths -/

/-- R141: the depth of the leaf a walk from depth `d` meets for the symbol; the leaf met last counts, which is the
only one where no symbol labels two leaves (R30; log entry 13). -/
def depthFrom (s : Symbol) : CodeTree → Nat → Option Nat
  | .leaf x, d => if x = s then some d else none
  | .node l r, d =>
    match depthFrom s r (d + 1) with
    | some e => some e
    | none => depthFrom s l (d + 1)

/-- The depth of a symbol's leaf, counted in edges from the root (R135). -/
def depthOf (t : CodeTree) (s : Symbol) : Option Nat := depthFrom s t 0

/-- The smallest symbol whose leaf is deeper than 255 (R141). -/
def tooDeep (t : CodeTree) : Option Symbol := allSymbols.find? fun s => decide (255 < (depthOf t s).getD 0)

/-- R141: the length table of a tree, 0 for a symbol with no leaf. -/
def lengthsOf (t : CodeTree) : LenTable := tabulate fun s => BitVec.ofNat 8 ((depthOf t s).getD 0)

/-! ## Lengths to tree -/

/-- Pair a list two at a time in order, the first of a pair being the left child; an odd list fails (R142). -/
def pairUp : List CodeTree → Option (List CodeTree)
  | [] => some []
  | [_] => none
  | a :: b :: r => (pairUp r).map (CodeTree.node a b :: ·)

/-- The leaves of a level, in ascending symbol order (R142). -/
def leavesAt (len : LenTable) (d : Nat) : List CodeTree :=
  (allSymbols.filter fun s => decide ((entry len s).toNat = d)).map CodeTree.leaf

/-- R142's loop from level `d` down to 1, `list` being carried over. -/
def reconLevels (len : LenTable) : Nat → List CodeTree → Option (List CodeTree)
  | 0, list => some list
  | d + 1, list =>
    match pairUp (list ++ leavesAt len (d + 1)) with
    | some up => reconLevels len d up
    | none => none

/-- The largest length of a table. -/
def maxLength (len : LenTable) : Nat := allSymbols.foldl (fun m s => max m (entry len s).toNat) 0

/-- R142: `Recon(L)`; `none` is `FAIL`. -/
def recon (len : LenTable) : Option CodeTree :=
  if maxLength len = 0 then none
  else match reconLevels len (maxLength len) [] with
    | some [t] => some t
    | some [] => none
    | some (_ :: _ :: _) => none
    | none => none

/-! ## The commands -/

/-- R141 `LEN_FROM_TREE`. -/
def execLenFromTree (s : State) : Host.Outcome State Fault Refusal :=
  command (fun s =>
    match s.tree with
    | none => raise .noTree 0#32 s
    | some t =>
      match tooDeep t with
      | some x => raise .lengthOverflow (symbolWord x) s
      | none => .done { s with len := lengthsOf t }) s

/-- R143 `TREE_FROM_LEN`. -/
def execTreeFromLen (s : State) : Host.Outcome State Fault Refusal :=
  command (fun s =>
    match recon s.len with
    | none => raise .nonCanonical 0#32 s
    | some t => .done { s with tree := some t }) s

/-- R148 `LEN_GET a`. -/
def execLenGet (a : BitVec 9) (s : State) : Host.Outcome State Fault Refusal :=
  command (fun s => withSymbol a s fun a => .done (s.withResult (byteWord (entry s.len a)))) s

/-- R149 `LEN_SET a, v`: no validation. -/
def execLenSet (a : BitVec 9) (v : Byte) (s : State) : Host.Outcome State Fault Refusal :=
  command (fun s => withSymbol a s fun a => .done { s with len := setEntry s.len a v }) s

/-- R150 `LEN_CLR`. -/
def execLenClr (s : State) : Host.Outcome State Fault Refusal :=
  command (fun s => .done { s with len := lenZero }) s

/-- R147 `LEN_EMIT`: the 257 bytes go straight to OUT, not through the BitWriter. -/
def execLenEmit (s : State) : Host.Outcome State Fault Refusal :=
  command (fun s => .done (s.outWriteAll s.len.toList)) s

/-- R151 `LEN_LOAD`. -/
def execLenLoad (s : State) : Host.Outcome State Fault Refusal :=
  command (fun s =>
    match inReadTable s with
    | .full bs t => .done { t with len := tableOfBytes bs }
    | .short n t => raise .truncated (BitVec.ofNat 32 n) t.setEnd
    | .hold => .hold) s

end Sys2Proof.Machine
end

