-- ==== Sys2Proof/Machine/BitStream.lean ====
section
/-! DEFINITION. BitReader and BitWriter (41_bitstream.md). -/

namespace Sys2Proof.Machine

/-! ## The shared primitives -/

/-- What `BRGet()` returns; at the end of data `BR` and IN are unchanged (R101). -/
inductive BitGet where
  | bit (b : Bool) (s : State)
  | atEnd
  | hold
  deriving DecidableEq, Repr

/-- The next bit of a reader that holds one: bit `rem − 1` of `buf`, and `rem` one less (R101). -/
def takeBit (s : State) : BitGet :=
  .bit (s.br.buf.getLsbD (s.br.rem - 1)) { s with br := { s.br with rem := s.br.rem - 1 } }

/-- R101: `BRGet()`. -/
def brGet (s : State) : BitGet :=
  if s.br.closed = true then .atEnd
  else if s.br.rem = 0 then
    match inRead s with
    | .byte c t => takeBit { t with br := { t.br with buf := c, rem := 8 } }
    | .atEnd => .atEnd
    | .hold => .hold
  else takeBit s

/-- A fresh BitReader, `(0, 0, 0)` (R102). -/
def State.openReader (s : State) : State := { s with br := ⟨0x00#8, 0, false⟩ }

/-- A closed BitReader, `(0, 0, 1)` (R106). -/
def State.closeReader (s : State) : State := { s with br := ⟨0x00#8, 0, true⟩ }

/-- `byte(x)` of R107: the first bit is the most significant. -/
def byteOfBits (x : Bits) : Byte := BitVec.ofNat 8 (bitsValue x)

/-- R108: `BWPut(bit)`. -/
def State.bwPut (s : State) (b : Bool) : State :=
  if (s.bw ++ [b]).length = 8 then { s.outWrite (byteOfBits (s.bw ++ [b])) with bw := [] }
  else { s with bw := s.bw ++ [b] }

/-- `BWPut` of each bit of a string, in order (R164). -/
def State.bwPutAll (s : State) (x : Bits) : State := x.foldl State.bwPut s

/-- R109: `BWClose()`. -/
def State.bwClose (s : State) : State :=
  if s.bw.length > 0 then
    { s.outWrite (byteOfBits (s.bw ++ List.replicate (8 - s.bw.length) false)) with bw := [] }
  else { s with bw := [] }

/-! ## The commands -/

/-- R102 `BR_OPEN`. -/
def execBrOpen (s : State) : Host.Outcome State Fault Refusal :=
  command (fun s => .done s.openReader) s

/-- R104, R105 `BR_GET`: `RESULT` is the bit, or 2 with `END` at the end of data. -/
def execBrGet (s : State) : Host.Outcome State Fault Refusal :=
  command (fun s =>
    match brGet s with
    | .bit b t => .done (t.withResult ((flagBit b).setWidth 32))
    | .atEnd => .done (s.withResult 2#32).setEnd
    | .hold => .hold) s

/-- R106 `BR_CLOSE`. -/
def execBrClose (s : State) : Host.Outcome State Fault Refusal :=
  command (fun s => .done s.closeReader) s

/-- R110 `BW_PUT t`. -/
def execBwPut (t : Bool) (s : State) : Host.Outcome State Fault Refusal :=
  command (fun s => .done (s.bwPut t)) s

/-- R111 `BW_CLOSE`. -/
def execBwClose (s : State) : Host.Outcome State Fault Refusal :=
  command (fun s => .done s.bwClose) s

end Sys2Proof.Machine
end

