-- ==== Sys2Proof/Machine/Decoder.lean ====
section
/-! DEFINITION. The bitstream decoder (46_decoder.md). -/

namespace Sys2Proof.Machine

/-- How a walk from the root ends. -/
inductive Walk where
  | symbol (x : Symbol) (s : State)
  /-- The BitReader returned `END`; the bits taken before stay taken (R257). -/
  | ended (s : State)
  | hold
  deriving DecidableEq, Repr

/-- R180, R181: walk from the root, one bit a step, `0` to the left and `1` to the right, until a leaf. -/
def walk : CodeTree → State → Walk
  | .leaf x, s => .symbol x s
  | .node l r, s =>
    match brGet s with
    | .bit b t => if b = true then walk r t else walk l t
    | .atEnd => .ended s
    | .hold => .hold

/-- R181 `DEC_SYM`: it does not close the BitReader on the sentinel. -/
def execDecSym (s : State) : Host.Outcome State Fault Refusal :=
  command (fun s =>
    match s.tree with
    | none => raise .noTree 0#32 s
    | some n =>
      match walk n s with
      | .symbol x t => .done ((t.withResult (symbolWord x)).markSentinel x)
      | .ended t => raise .truncated endInfo t.setEnd
      | .hold => .hold) s

end Sys2Proof.Machine
end

