-- ==== Sys2Proof/Machine/ArchiveRead.lean ====
section
/-! DEFINITION. The archive framer, read path and manifest codec, and the abort of any run (48_archive_read.md). -/

namespace Sys2Proof.Machine

/-- The result that marks the end of a path (R223, R226). -/
def pathEndResult : Word := 0x100#32

/-- The result that marks the manifest terminator (R223). -/
def manifestEndResult : Word := 0x101#32

/-- R222: compare the two magic bytes, both having been read. -/
def checkMagic (c0 c1 : Byte) (s : State) : Ending :=
  if c0 ≠ s.cfg.magic0 ∨ c1 ≠ s.cfg.magic1 then
    raiseFatal .badMagic ((byteWord c1 <<< 8) ||| byteWord c0) s
  else .done (s.toPhase .rManifest)

/-- R222 `AR_MAGIC`. -/
def execArMagic (s : State) : Host.Outcome State Fault Refusal :=
  command (fun s => inPhase [.idle] s
    (match inRead s with
    | .hold => .hold
    | .atEnd => raiseFatal .badMagic endInfo s.setEnd
    | .byte c0 t =>
      match inRead t with
      | .hold => .hold
      | .atEnd => raiseFatal .badMagic endInfo t.setEnd
      | .byte c1 u => checkMagic c0 c1 u)) s

/-- R223 `AR_MBYTE`: `MEND` is tested before NUL. -/
def execArMbyte (s : State) : Host.Outcome State Fault Refusal :=
  command (fun s => inPhase [.rManifest] s
    (match inRead s with
    | .hold => .hold
    | .atEnd => raiseFatal .truncated endInfo s.setEnd
    | .byte c t =>
      if c = s.cfg.mend then .done ((t.withResult manifestEndResult).toPhase .rEntry)
      else if c = 0x00#8 then .done (t.withResult pathEndResult)
      else .done (t.withResult (byteWord c)))) s

/-- R224 `AR_SKIPM`. -/
def execArSkipm (s : State) : Host.Outcome State Fault Refusal :=
  command (fun s => inPhase [.rManifest] s
    (match inReadPast s.cfg.mend s with
    | .hold => .hold
    | .atEnd t => raiseFatal .truncated endInfo t.setEnd
    | .found t => .done ((t.withResult 0#32).toPhase .rEntry))) s

/-- R225 `AR_ENTRY`: the end of the stream is the normal end of the archive. -/
def execArEntry (s : State) : Host.Outcome State Fault Refusal :=
  command (fun s => inPhase [.rEntry] s
    (match inRead s with
    | .hold => .hold
    | .atEnd => .done ((s.setEnd.withResult 0#32).toPhase .rDone)
    | .byte c t =>
      if c = s.cfg.tagDir then .done ((t.withResult 1#32).toPhase .rDpath)
      else if c = s.cfg.tagFile then .done ((t.withResult 2#32).toPhase .rFpath)
      else raiseFatal .badTag (byteWord c) t)) s

/-- R226 `AR_PBYTE`: any byte but NUL is a path byte. -/
def execArPbyte (s : State) : Host.Outcome State Fault Refusal :=
  command (fun s => inPhase [.rDpath, .rFpath] s
    (match inRead s with
    | .hold => .hold
    | .atEnd => raiseFatal .truncated endInfo s.setEnd
    | .byte c t =>
      if c = 0x00#8 then
        .done ((t.withResult pathEndResult).toPhase (if s.fph = .rDpath then .rEntry else .rLens))
      else .done (t.withResult (byteWord c)))) s

/-- R228 `AR_FILEHDR`: a short table is an entry error, a table that fails `Recon` a fatal one. -/
def execArFilehdr (s : State) : Host.Outcome State Fault Refusal :=
  command (fun s => inPhase [.rLens] s
    (match inReadTable s with
    | .hold => .hold
    | .short n t => raiseEntry .truncated (BitVec.ofNat 32 n) t.setEnd
    | .full bs t =>
      match recon (tableOfBytes bs) with
      | none => raiseFatal .nonCanonical 0#32 t
      | some tree =>
        .done { t.openReader.toPhase .rPayload with len := tableOfBytes bs, tree := some tree })) s

/-- R229: the end of a symbol's decoding; the sentinel closes the BitReader and ends the entry. -/
def finishSymbol (x : Symbol) (s : State) : State :=
  if x = sentinel then { ((s.withResult (symbolWord x)).closeReader.toPhase .rEntry) with sent := true }
  else s.withResult (symbolWord x)

/-- R229 `AR_SYM`. -/
def execArSym (s : State) : Host.Outcome State Fault Refusal :=
  command (fun s => inPhase [.rPayload] s
    (match s.tree with
    | none => .stuck .payloadWithoutTree
    | some n =>
      match walk n s with
      | .hold => .hold
      | .ended t => raiseEntry .truncated endInfo t.setEnd.closeReader
      | .symbol x t => .done (finishSymbol x t))) s

/-- R231 `AR_END`: IN is restarted. -/
def execArEnd (s : State) : Host.Outcome State Fault Refusal :=
  command (fun s => inPhase [.rEntry, .rDone] s
    (.done (s.closeReader.restartIn.toPhase .idle))) s

/-- R232 `FR_ABORT`: legal in every phase. -/
def execFrAbort (s : State) : Host.Outcome State Fault Refusal :=
  command (fun s => .done { s.closeReader.restartIn.toPhase .idle with bw := [] }) s

end Sys2Proof.Machine
end

