-- ==== Sys2Proof/Machine/Encoder.lean ====
section
/-! DEFINITION. The code table and the bitstream encoder (45_encoder.md). -/

namespace Sys2Proof.Machine

/-! ## The code table -/

/-- R160: the path from the root to the symbol's leaf, `0` for left and `1` for right; the leaf walked last counts,
which is the only one where no symbol labels two leaves (R30; log entry 13). -/
def codeOf (s : Symbol) : CodeTree → Option Bits
  | .leaf x => if x = s then some [] else none
  | .node l r =>
    match codeOf s r with
    | some p => some (true :: p)
    | none => (codeOf s l).map (false :: ·)

/-- The smallest symbol whose code is longer than 255 bits (R160). -/
def tooLong (t : CodeTree) : Option Symbol :=
  allSymbols.find? fun s => decide (255 < ((codeOf s t).getD []).length)

/-- R160: the code table of a tree. -/
def codesOf (t : CodeTree) : CodeTable := tabulate fun s => codeOf s t

/-- The code of a symbol in `CODE`: nothing when there is no table or the symbol is absent (log entry 12). -/
def State.codeFor (s : State) (a : Symbol) : Option Bits :=
  match s.code with
  | none => none
  | some c => entry c a

/-- R164: `Enc(s)`, the symbol's code having been found. -/
def State.enc (s : State) (x : Bits) : State := s.bwPutAll x

/-! ## The commands -/

/-- R160 `CODE_GEN`. -/
def execCodeGen (s : State) : Host.Outcome State Fault Refusal :=
  command (fun s =>
    match s.tree with
    | none => raise .noTree 0#32 s
    | some t =>
      match tooLong t with
      | some x => raise .lengthOverflow (symbolWord x) s
      | none => .done { s with code := some (codesOf t) }) s

/-- R162 `CODE_LEN a`: an absent symbol reads 0. -/
def execCodeLen (a : BitVec 9) (s : State) : Host.Outcome State Fault Refusal :=
  command (fun s => withSymbol a s fun a =>
    match s.code with
    | none => raise .noCode (symbolWord a) s
    | some c => .done (s.withResult (BitVec.ofNat 32 ((entry c a).getD []).length))) s

/-- R163 `CODE_BIT a, v`: bit 0 is the one nearest the root. -/
def execCodeBit (a : BitVec 9) (v : Byte) (s : State) : Host.Outcome State Fault Refusal :=
  command (fun s => withSymbol a s fun a =>
    match s.codeFor a with
    | none => raise .noCode (symbolWord a) s
    | some x =>
      match x[v.toNat]? with
      | none => raise .indexRange (byteWord v) s
      | some b => .done (s.withResult ((flagBit b).setWidth 32))) s

/-- R165 `ENC_SYM a`: nothing is emitted when the symbol has no code. -/
def execEncSym (a : BitVec 9) (s : State) : Host.Outcome State Fault Refusal :=
  command (fun s => withSymbol a s fun a =>
    match s.codeFor a with
    | none => raise .noCode (symbolWord a) s
    | some x => .done (s.enc x)) s

/-- R166 `ENC_END`: the sentinel's code, then close the BitWriter. -/
def execEncEnd (s : State) : Host.Outcome State Fault Refusal :=
  command (fun s =>
    match s.codeFor sentinel with
    | none => raise .noCode (symbolWord sentinel) s
    | some x => .done (s.enc x).bwClose) s

end Sys2Proof.Machine
end

