-- ==== Sys2Proof/Machine/Frequency.lean ====
section
/-! DEFINITION. The frequency counter (42_frequency.md). -/

namespace Sys2Proof.Machine

/-- R125: count one occurrence of a symbol. -/
def countSymbol (f : FreqTable) (a : Symbol) : FreqTable := setEntry f a (entry f a + 1)

/-- R120 `FREQ_CLR`. -/
def execFreqClr (s : State) : Host.Outcome State Fault Refusal :=
  command (fun s => .done { s with freq := freqZero }) s

/-- R121 `FREQ_INC a`: a counter at `CNT_MAX` raises `COUNTER_OVERFLOW` and keeps its value. -/
def execFreqInc (a : BitVec 9) (s : State) : Host.Outcome State Fault Refusal :=
  command (fun s => withSymbol a s fun a =>
    if entry s.freq a = s.cfg.cntMax then raise .counterOverflow (symbolWord a) s
    else .done { s with freq := countSymbol s.freq a }) s

/-- R122 `FREQ_GET a`. -/
def execFreqGet (a : BitVec 9) (s : State) : Host.Outcome State Fault Refusal :=
  command (fun s => withSymbol a s fun a =>
    .done (s.withResult (BitVec.ofNat 32 (entry s.freq a)))) s

end Sys2Proof.Machine
end

