-- ==== Sys2Proof/Machine/TreeBuilder.lean ====
section
/-! DEFINITION. The tree builder (43_tree_builder.md). -/

namespace Sys2Proof.Machine

/-- An entry of the priority structure: its key `(w, t)` and its tree (R132). -/
structure Candidate where
  w    : Nat
  t    : Nat
  tree : CodeTree
  deriving DecidableEq, Repr

/-- R132: entries are ordered by weight, then by tie-break number. -/
def Candidate.before (x y : Candidate) : Bool := decide (x.w < y.w) || (decide (x.w = y.w) && decide (x.t < y.t))

/-- The entry of a symbol (R131, R132). -/
def leafCandidate (f : FreqTable) (s : Symbol) : Candidate := ⟨entry f s, s.val, .leaf s⟩

/-- R131: add leaves of weight 0 for the smallest unused symbols while there are fewer than two entries. -/
def padCandidates (f : FreqTable) : List Symbol → List Candidate → List Candidate
  | [], p => p
  | s :: ss, p =>
    if p.length < 2 then padCandidates f ss (if entry f s = 0 then p ++ [leafCandidate f s] else p)
    else p

/-- R131, R133: the initial entries. -/
def candidates (f : FreqTable) : List Candidate :=
  padCandidates f allSymbols ((allSymbols.filter fun s => decide (0 < entry f s)).map (leafCandidate f))

/-- The entry of the least key of `x :: p`, and the others. -/
def extractLeast : Candidate → List Candidate → Candidate × List Candidate
  | x, [] => (x, [])
  | x, y :: p =>
    let (m, rest) := extractLeast y p
    if m.before x = true then (m, x :: rest) else (x, y :: p)

/-- R133's loop: `k` merges are done, at most `fuel` are still to be made. -/
def mergeLoop : Nat → Nat → List Candidate → Option CodeTree
  | _, _, [] => none
  | _, _, [x] => some x.tree
  | 0, _, _ :: _ :: _ => none
  | fuel + 1, k, p :: q :: r =>
    let (x, rest) := extractLeast p (q :: r)
    match rest with
    | [] => none
    | y :: rest =>
      let (y, rest) := extractLeast y rest
      mergeLoop fuel (k + 1) (rest ++ [⟨x.w + y.w, 257 + k, .node x.tree y.tree⟩])

/-- R133: the Huffman tree of a frequency table. `m` entries take `m − 1` merges; every table gives a tree. -/
def buildTree (f : FreqTable) : Option CodeTree := mergeLoop (candidates f).length 0 (candidates f)

/-- R133 `TREE_BUILD`. -/
def execTreeBuild (s : State) : Host.Outcome State Fault Refusal :=
  command (fun s => .done { s with tree := buildTree s.freq }) s

end Sys2Proof.Machine
end

