-- ==== Sys2Proof/Machine/ArchiveWrite.lean ====
section
/-! DEFINITION. The archive framer, write path (47_archive_write.md). -/

namespace Sys2Proof.Machine

/-- What the middle of the write path makes of a file's counters (R200). -/
inductive Header where
  /-- A leaf is deeper than 255: `LENGTH_OVERFLOW(s)`. -/
  | overflow (s : Symbol)
  /-- The tables of the file. -/
  | tables (len : LenTable) (tree : CodeTree) (code : CodeTable)
  /-- No tree was built or rebuilt, which the spec says never happens. -/
  | broken
  deriving DecidableEq, Repr

/-- R200: the lengths of the greedy tree, the tree rebuilt from them, and that tree's codes (R167). -/
def fileHeader (f : FreqTable) : Header :=
  match buildTree f with
  | none => .broken
  | some t0 =>
    match tooDeep t0 with
    | some x => .overflow x
    | none =>
      match recon (lengthsOf t0) with
      | none => .broken
      | some t => .tables (lengthsOf t0) t (codesOf t)

/-- R193 `AW_BEGIN`. -/
def execAwBegin (s : State) : Host.Outcome State Fault Refusal :=
  command (fun s => inPhase [.idle] s
    (.done (((s.outWrite s.cfg.magic0).outWrite s.cfg.magic1).toPhase .wManifest))) s

/-- R194 `AW_PBYTE b`, with the path-byte rule R203. -/
def execAwPbyte (b : Byte) (s : State) : Host.Outcome State Fault Refusal :=
  command (fun s => inPhase [.wManifest, .wMpath, .wDpath, .wFpath] s
    (if b = 0x00#8 ∨ b = s.cfg.mend then raise .badPathByte (byteWord b) s
    else .done ((s.outWrite b).toPhase (if s.fph = .wManifest then .wMpath else s.fph)))) s

/-- R195: the phase after the end of a path. -/
def afterPath : Phase → Phase
  | .wDpath => .wBlocks
  | .wFpath => .wFcount
  | _ => .wManifest

/-- R195 `AW_PEND`. -/
def execAwPend (s : State) : Host.Outcome State Fault Refusal :=
  command (fun s => inPhase [.wManifest, .wMpath, .wDpath, .wFpath] s
    (.done ((s.outWrite 0x00#8).toPhase (afterPath s.fph)))) s

/-- R196 `AW_MEND`. -/
def execAwMend (s : State) : Host.Outcome State Fault Refusal :=
  command (fun s => inPhase [.wManifest] s
    (.done ((s.outWrite s.cfg.mend).toPhase .wBlocks))) s

/-- R197 `AW_DIR`. -/
def execAwDir (s : State) : Host.Outcome State Fault Refusal :=
  command (fun s => inPhase [.wBlocks] s
    (.done ((s.outWrite s.cfg.tagDir).toPhase .wDpath))) s

/-- R198 `AW_FILE`: a fresh frequency table per file. -/
def execAwFile (s : State) : Host.Outcome State Fault Refusal :=
  command (fun s => inPhase [.wBlocks] s
    (.done { (s.outWrite s.cfg.tagFile).toPhase .wFpath with freq := freqZero })) s

/-- R199 `AW_COUNT b`: an overflow is fatal. -/
def execAwCount (b : Byte) (s : State) : Host.Outcome State Fault Refusal :=
  command (fun s => inPhase [.wFcount] s (withByte b fun x =>
    if entry s.freq x = s.cfg.cntMax then raiseFatal .counterOverflow (symbolWord x) s
    else .done { s with freq := countSymbol s.freq x })) s

/-- R200 `AW_FILEHDR`. -/
def execAwFilehdr (s : State) : Host.Outcome State Fault Refusal :=
  command (fun s => inPhase [.wFcount] s
    (if entry s.freq sentinel = s.cfg.cntMax then raiseFatal .counterOverflow (symbolWord sentinel) s
    else match fileHeader (countSymbol s.freq sentinel) with
      | .overflow x => raiseFatal .lengthOverflow (symbolWord x) s
      | .broken => .stuck .headerNotRebuilt
      | .tables len tree code =>
        .done { (s.outWriteAll len.toList).toPhase .wPayload with
          freq := countSymbol s.freq sentinel, len := len, tree := some tree, code := some code, bw := [] })) s

/-- R201 `AW_SYM b`: a byte with no code is fatal. The padding symbol 0 of an empty file has a code (R200), so `AW_SYM 0`
encodes there, where R287 would have it raise `NO_CODE`: the model follows R200 and R201 (log entry 24). -/
def execAwSym (b : Byte) (s : State) : Host.Outcome State Fault Refusal :=
  command (fun s => inPhase [.wPayload] s (withByte b fun x =>
    match s.codeFor x with
    | none => raiseFatal .noCode (symbolWord x) s
    | some c => .done (s.enc c))) s

/-- R202 `AW_FEND`. -/
def execAwFend (s : State) : Host.Outcome State Fault Refusal :=
  command (fun s => inPhase [.wPayload] s
    (match s.codeFor sentinel with
    | none => raiseFatal .noCode (symbolWord sentinel) s
    | some c => .done ((s.enc c).bwClose.toPhase .wBlocks))) s

/-- R210 `AW_END`: nothing is written. -/
def execAwEnd (s : State) : Host.Outcome State Fault Refusal :=
  command (fun s => inPhase [.wBlocks] s (.done (s.toPhase .idle))) s

end Sys2Proof.Machine
end

