-- ==== Sys2Proof/Machine/Control.lean ====
section
/-! DEFINITION. The control commands (40_control.md). -/

namespace Sys2Proof.Machine

/-- The core's state and IN at their reset values, everything else as it is (R91, R271). -/
def State.softReset (s : State) : State :=
  { s.restartIn with
    busy := false, err := false, endf := false, sent := false
    result := 0#32, errcode := .noError
    freq := freqZero, tree := none, len := lenZero, code := none
    bw := [], br := ⟨0x00#8, 0, true⟩, fph := .idle }

/-- R90 `NOP`: the command-start clearing and nothing else. -/
def execNop (s : State) : Host.Outcome State Fault Refusal :=
  command (fun s => .done s) s

/-- R91 `SRST`: soft reset; OUT is unchanged. -/
def execSrst (s : State) : Host.Outcome State Fault Refusal :=
  command (fun s => .done s.softReset) s

end Sys2Proof.Machine
end

