-- ==== Sys2Proof/Machine/Dispatch.lean ====
section
/-! DEFINITION. One arm per command: the meaning of each. -/

namespace Sys2Proof.Machine

def exec (i : Instr) (s : State) : Host.Outcome State Fault Refusal :=
  match i with
  | .nop => Sys2Proof.Machine.execNop s
  | .srst => Sys2Proof.Machine.execSrst s
  | .brOpen => Sys2Proof.Machine.execBrOpen s
  | .brGet => Sys2Proof.Machine.execBrGet s
  | .brClose => Sys2Proof.Machine.execBrClose s
  | .bwPut t => Sys2Proof.Machine.execBwPut t s
  | .bwClose => Sys2Proof.Machine.execBwClose s
  | .freqClr => Sys2Proof.Machine.execFreqClr s
  | .freqInc a => Sys2Proof.Machine.execFreqInc a s
  | .freqGet a => Sys2Proof.Machine.execFreqGet a s
  | .treeBuild => Sys2Proof.Machine.execTreeBuild s
  | .lenFromTree => Sys2Proof.Machine.execLenFromTree s
  | .treeFromLen => Sys2Proof.Machine.execTreeFromLen s
  | .lenGet a => Sys2Proof.Machine.execLenGet a s
  | .lenSet a v => Sys2Proof.Machine.execLenSet a v s
  | .lenClr => Sys2Proof.Machine.execLenClr s
  | .lenEmit => Sys2Proof.Machine.execLenEmit s
  | .lenLoad => Sys2Proof.Machine.execLenLoad s
  | .codeGen => Sys2Proof.Machine.execCodeGen s
  | .codeLen a => Sys2Proof.Machine.execCodeLen a s
  | .codeBit a v => Sys2Proof.Machine.execCodeBit a v s
  | .encSym a => Sys2Proof.Machine.execEncSym a s
  | .encEnd => Sys2Proof.Machine.execEncEnd s
  | .decSym => Sys2Proof.Machine.execDecSym s
  | .awBegin => Sys2Proof.Machine.execAwBegin s
  | .awPbyte b => Sys2Proof.Machine.execAwPbyte b s
  | .awPend => Sys2Proof.Machine.execAwPend s
  | .awMend => Sys2Proof.Machine.execAwMend s
  | .awDir => Sys2Proof.Machine.execAwDir s
  | .awFile => Sys2Proof.Machine.execAwFile s
  | .awCount b => Sys2Proof.Machine.execAwCount b s
  | .awFilehdr => Sys2Proof.Machine.execAwFilehdr s
  | .awSym b => Sys2Proof.Machine.execAwSym b s
  | .awFend => Sys2Proof.Machine.execAwFend s
  | .awEnd => Sys2Proof.Machine.execAwEnd s
  | .arMagic => Sys2Proof.Machine.execArMagic s
  | .arMbyte => Sys2Proof.Machine.execArMbyte s
  | .arSkipm => Sys2Proof.Machine.execArSkipm s
  | .arEntry => Sys2Proof.Machine.execArEntry s
  | .arPbyte => Sys2Proof.Machine.execArPbyte s
  | .arFilehdr => Sys2Proof.Machine.execArFilehdr s
  | .arSym => Sys2Proof.Machine.execArSym s
  | .arEnd => Sys2Proof.Machine.execArEnd s
  | .frAbort => Sys2Proof.Machine.execFrAbort s

end Sys2Proof.Machine
end

