-- ==== Sys2Proof/Machine/Window.lean ====
section
/-! DEFINITION. The host's side of the interface: the 64-byte register window (R22 to R28, R61, R67), the host ends of
the streams (R52, R55), and hardware reset (R270, R272). -/

namespace Sys2Proof.Machine

/-- R61: a register access is 32 bits wide, at a multiple of 4, inside the 64-byte window. -/
def accessDefined (width off : Nat) : Bool := decide (width = 32) && decide (off % 4 = 0) && decide (off < 64)

/-- R22: what a read of the register at a window offset returns. `CMD` and the reserved offsets read 0. -/
def State.readRegister (s : State) (off : Nat) : Word :=
  if off = 0x04 then s.statusWord
  else if off = 0x08 then s.result
  else if off = 0x0C then s.errcodeWord
  else if off = 0x10 then s.bstateWord
  else if off = 0x14 then config0Word s.cfg
  else if off = 0x18 then config1Word s.cfg
  else if off = 0x1C then cntMaxWord s.cfg
  else 0#32

/-- R23: a word written to `CMD` joins the words that wait, behind all of them, and the port is busy from then on until
the core has run a command (log entry 6). -/
def State.issue (s : State) (w : Word) : State := { s with cmdq := s.cmdq ++ [w], busy := true }

/-- R22: a write to the register at a window offset; only `CMD` does anything. -/
def State.writeRegister (s : State) (off : Nat) (v : Word) : State := if off = 0x00 then s.issue v else s

/-- R270, R272: hardware reset, which also drops the words held at `CMD` and the bytes in OUT (log entry 7). -/
def State.hardReset (s : State) : State := { s.softReset with cmdq := [], out := [] }

/-- A host read (R61: it changes no state of the core; the host has one value more). -/
def hostRead (width off : Nat) (s : State) : Host.Outcome State Fault Refusal :=
  if accessDefined width off = true then .next { s with reads := s.reads ++ [s.readRegister off] }
  else .refused .badAccess

/-- A host write (R22, R61). -/
def hostWrite (width off : Nat) (v : Word) (s : State) : Host.Outcome State Fault Refusal :=
  if accessDefined width off = true then .next (s.writeRegister off v) else .refused .badAccess

/-- The host appends a byte to IN while `eos = 0` (R52). -/
def hostPush (b : Byte) (s : State) : Host.Outcome State Fault Refusal :=
  if s.eos = true then .refused .appendAfterEos else .next { s with inq := s.inq ++ [b] }

/-- The host sets `eos` to 1, once (R52). -/
def hostSetEos (s : State) : Host.Outcome State Fault Refusal :=
  if s.eos = true then .refused .eosSetTwice else .next { s with eos := true }

/-- The host drains one byte from the front of OUT (R55); with OUT empty it gets nothing (log entry 10). -/
def hostDrain (s : State) : Host.Outcome State Fault Refusal :=
  match s.out with
  | [] => .next s
  | b :: rest => .next { s with out := rest, received := s.received ++ [b] }

/-- Hardware reset, as a move of the outside world (R270). -/
def hostHardReset (s : State) : Host.Outcome State Fault Refusal := .next s.hardReset

/-- One move of the host. -/
def hostStep (m : HostMove) (s : State) : Host.Outcome State Fault Refusal :=
  match m with
  | .read width off => hostRead width off s
  | .write width off v => hostWrite width off v s
  | .push b => hostPush b s
  | .setEos => hostSetEos s
  | .drain => hostDrain s
  | .hardReset => hostHardReset s

end Sys2Proof.Machine
end

