-- ==== Sys2Proof/Machine/Sequencer.lean ====
section
/-! DEFINITION. The core's step: take the word at the command port, decode it, run it (R23, R57, R74, R251). -/

namespace Sys2Proof.Machine

/-- R74: a word that decodes to no command raises its error, with no other effect (R76). -/
def rejectWord (e : DecodeError) (s : State) : Host.Outcome State Fault Refusal :=
  command (fun s =>
    match e with
    | .illegalCmd w => raise .illegalCmd w s
    | .symbolRange a => raise .symbolRange (a.setWidth 32) s) s

/-- Decode a word and run what it names (R74). -/
def runWord (w : Word) (s : State) : Host.Outcome State Fault Refusal :=
  match decode w with
  | .ok i => exec i s
  | .error e => rejectWord e s

/-- A command that has completed leaves the port; one that holds stays at its front (R23, R58). -/
def State.retire (s : State) : State := if s.busy = true then s else { s with cmdq := s.cmdq.tail }

/-- One step of the core (R57). An idle core waits (R262), and a command that still holds changes nothing but `BUSY`
(R58; log entry 4). -/
def coreStep (s : State) : Host.Outcome State Fault Refusal :=
  match s.cmdq with
  | [] => .next s
  | w :: _ =>
    match runWord w s with
    | .next t => .next t.retire
    | .fault r => .fault r
    | .refused r => .refused r

/-- Whether a core step runs a command to its end, as R58 defines it: the command at the port reaches completion or a
`raise` without reaching `HOLD`. -/
def State.coreEnabled (s : State) : Bool :=
  match s.cmdq with
  | [] => false
  | w :: _ =>
    match runWord w s with
    | .next t => !t.busy
    | .fault _ => false
    | .refused _ => false

/-- The state in which `w` is the word the core runs next: it stands at the front of the command port, and the next
move is the core's (log entry 8). -/
def State.withWordNext (s : State) (w : Word) : State :=
  { s with cmdq := w :: s.cmdq, schedule := .core :: s.schedule }

end Sys2Proof.Machine
end

