-- ==== Sys2Proof/Machine/Step.lean ====
section
/-! DEFINITION. One step of the machine: one move of one of its two agents (R12), the schedule saying whose. -/

namespace Sys2Proof.Machine

/-- The next move of the schedule; with none left, the core moves (log entries 3 and 4). -/
def step (s : State) : Host.Outcome State Fault Refusal :=
  match s.schedule with
  | [] => coreStep s
  | .core :: rest => coreStep { s with schedule := rest }
  | .host m :: rest => hostStep m { s with schedule := rest }

/-- The word of `nbits` bits `w` placed where the next step takes its command (log entry 8). -/
def State.withFetchWord (s : State) (nbits w : Nat) : State :=
  s.withWordNext (BitVec.ofNat 32 (w % 2 ^ nbits))

end Sys2Proof.Machine
end

