-- ==== Sys2Proof/Machine/Archive.lean ====
section
/-! DEFINITION. The archive as data (R190), the DFS order a host lists a source tree in (R191, R192), the payload of a
file (R168), and the commands a host issues to write an archive (R78, R205). Nothing here is state of the core. -/

namespace Sys2Proof.Machine

/-! ## The source tree and its DFS order -/

/-- A file or a directory with its children in enumeration order (R191). -/
inductive FsNode where
  | file (name content : List Byte)
  | dir (name : List Byte) (children : List FsNode)
  deriving Repr

/-- The name of a node. -/
def FsNode.name : FsNode → List Byte
  | .file n _ => n
  | .dir n _ => n

mutual
  /-- The number of entries a tree gives. -/
  def FsNode.size : FsNode → Nat
    | .file _ _ => 1
    | .dir _ cs => 1 + FsNode.sizeAll cs
  /-- The number of entries a list of trees gives. -/
  def FsNode.sizeAll : List FsNode → Nat
    | [] => 0
    | c :: cs => FsNode.size c + FsNode.sizeAll cs
end

/-- An archive entry: its relative path, and its bytes when it is a file. -/
structure ArchiveEntry where
  path    : List Byte
  content : Option (List Byte)
  deriving DecidableEq, Repr

/-- R192 in the reference configuration: the parent's path, `/`, the child's name. -/
def childPath (parent : List Byte) (c : FsNode) : List Byte := parent ++ [0x2F#8] ++ c.name

/-- The entry of one node at a path. -/
def entryAt (path : List Byte) : FsNode → ArchiveEntry
  | .file _ d => ⟨path, some d⟩
  | .dir _ _ => ⟨path, none⟩

/-- The children of a node, each with its path, in enumeration order (R191). -/
def childrenAt (path : List Byte) : FsNode → List (List Byte × FsNode)
  | .file _ _ => []
  | .dir _ cs => cs.map fun c => (childPath path c, c)

/-- R191's loop: pop the node pushed last, list it, push its children in enumeration order. -/
def dfsLoop : Nat → List (List Byte × FsNode) → List ArchiveEntry
  | 0, _ => []
  | _ + 1, [] => []
  | fuel + 1, (p, n) :: stack => entryAt p n :: dfsLoop fuel ((childrenAt p n).reverse ++ stack)

/-- R191: `DfsOrder(root)`, the root's path being its own name (R192). -/
def dfsOrder (root : FsNode) : List ArchiveEntry := dfsLoop root.size [(root.name, root)]

mutual
  /-- The order R191 describes in words, written on the tree: a node, then its children "visited in reverse of that
  order", each with all below it. -/
  def reversePreorder (path : List Byte) : FsNode → List ArchiveEntry
    | .file _ d => [⟨path, some d⟩]
    | .dir _ cs => ⟨path, none⟩ :: reversePreorderAll path cs
  /-- The children of the node at `path`, last first. -/
  def reversePreorderAll (path : List Byte) : List FsNode → List ArchiveEntry
    | [] => []
    | c :: cs => reversePreorderAll path cs ++ reversePreorder (childPath path c) c
end

/-! ## The payload and the archive -/

/-- The bits of a byte, most significant first (R62). -/
def byteBits (b : Byte) : Bits := (List.range 8).map fun i => b.getLsbD (7 - i)

/-- The bits of a sequence of bytes, each most significant bit first (R62, R112). -/
def bitsOfBytes (bs : List Byte) : Bits := bs.flatMap byteBits

/-- `bytes` of R168: cut a bit string into bytes, most significant bit first. -/
def bytesOfBits : Bits → List Byte
  | a :: b :: c :: d :: e :: f :: g :: h :: rest => byteOfBits [a, b, c, d, e, f, g, h] :: bytesOfBits rest
  | _ => []

/-- The number of zero bits that fill a bit string up to a byte (R112, R168). -/
def padCount (n : Nat) : Nat := 8 * ((n + 7) / 8) - n

/-- R168: the codes of the file's bytes, then the sentinel's. -/
def payloadBits (c : CodeTable) (d : List Byte) : Bits :=
  d.flatMap (fun b => (entry c (byteSymbol b)).getD []) ++ (entry c sentinel).getD []

/-- R168: `Payload(C, d)`. -/
def payload (c : CodeTable) (d : List Byte) : List Byte :=
  bytesOfBits (payloadBits c d ++ List.replicate (padCount (payloadBits c d).length) false)

/-- R123: the counting pass without the sentinel's increment. -/
def countBytes (d : List Byte) : FreqTable := d.foldl (fun f b => countSymbol f (byteSymbol b)) freqZero

/-- R123: the counting pass of one file. -/
def countFile (d : List Byte) : FreqTable := countSymbol (countBytes d) sentinel

/-- R190 `path 0x00`. -/
def pathField (p : List Byte) : List Byte := p ++ [0x00#8]

/-- R190 `block`. -/
def blockOf (c : Config) (e : ArchiveEntry) : Option (List Byte) :=
  match e.content with
  | none => some (c.tagDir :: pathField e.path)
  | some d =>
    match fileHeader (countFile d) with
    | .tables len _ code => some (c.tagFile :: pathField e.path ++ len.toList ++ payload code d)
    | .overflow _ => none
    | .broken => none

/-- R190 `block*`. -/
def blocksOf (c : Config) : List ArchiveEntry → Option (List Byte)
  | [] => some []
  | e :: es =>
    match blockOf c e, blocksOf c es with
    | some x, some y => some (x ++ y)
    | _, _ => none

/-- R190 `manifest`. -/
def manifestOf (es : List ArchiveEntry) : List Byte := es.flatMap fun e => pathField e.path

/-- R190 `archive`. -/
def archiveOf (c : Config) (es : List ArchiveEntry) : Option (List Byte) :=
  (blocksOf c es).map fun blocks => [c.magic0, c.magic1] ++ manifestOf es ++ [c.mend] ++ blocks

/-- R190, R203: the bytes a path may hold. -/
def pathAllowed (c : Config) (p : List Byte) : Prop := ∀ b ∈ p, b ≠ 0x00#8 ∧ b ≠ c.mend

/-! ## Pseudo-commands and the write run (R78, R205) -/

/-- `FREQ_SENT`. -/
def freqSent : List Instr := [.freqInc 256#9]

/-- `ENC_BYTE b`. -/
def encByte (b : Byte) : List Instr := [.encSym (b.setWidth 9)]

/-- `MKCODE`. -/
def mkcode : List Instr := [.treeBuild, .lenFromTree, .treeFromLen, .codeGen]

/-- `AW_PATH "p"`. -/
def awPath (p : List Byte) : List Instr := p.map Instr.awPbyte ++ [.awPend]

/-- `AW_COUNTS "d"`. -/
def awCounts (d : List Byte) : List Instr := d.map Instr.awCount

/-- `AW_SYMS "d"`. -/
def awSyms (d : List Byte) : List Instr := d.map Instr.awSym

/-- R205: the commands of one entry block. -/
def writeBlock (e : ArchiveEntry) : List Instr :=
  match e.content with
  | none => [.awDir] ++ awPath e.path
  | some d => [.awFile] ++ awPath e.path ++ awCounts d ++ [.awFilehdr] ++ awSyms d ++ [.awFend]

/-- R205: the write run of a list of entries. -/
def writeRun (es : List ArchiveEntry) : List Instr :=
  [.awBegin] ++ es.flatMap (fun e => awPath e.path) ++ [.awMend] ++ es.flatMap writeBlock ++ [.awEnd]

/-- R123: the counting pass of one file, by the standalone commands. -/
def countingPass (d : List Byte) : List Instr :=
  [.freqClr] ++ d.map (fun b => Instr.freqInc (b.setWidth 9)) ++ freqSent

/-- R168: the encoding pass of one file, by the standalone commands. -/
def encodingPass (d : List Byte) : List Instr := d.flatMap encByte ++ [.encEnd]

end Sys2Proof.Machine
end

