-- ==== Sys2Proof/Machine/Procedures.lean ====
section
/-! DEFINITION. The host procedures that branch on results: the decode loop (R183), preview (R233) and extraction
(R234), as functions that issue commands. What the host does with the entries it is handed (R227, R280) is outside the
core (R5). A loop takes a bound on its turns (log entry 19); errors the rules have no branch for are log entry 25. -/

namespace Sys2Proof.Machine

/-- Run commands one after another; stop at the first that does not complete. -/
def runAll : List Instr → State → Option State
  | [], s => some s
  | i :: is, s =>
    match exec i s with
    | .next t => if t.busy = true then none else runAll is t
    | .fault _ => none
    | .refused _ => none

/-- Run commands one after another; stop at the first that does not complete or that raises an error. -/
def runClean : List Instr → State → Option State
  | [], s => some s
  | i :: is, s =>
    match exec i s with
    | .next t => if t.busy = true ∨ t.err = true then none else runClean is t
    | .fault _ => none
    | .refused _ => none

/-- Run one command to its end. -/
def runOne (i : Instr) (s : State) : Option State := runAll [i] s

/-- The byte a result holds. -/
def State.resultByte (s : State) : Byte := s.result.setWidth 8

/-- R183: `DEC_SYM` until it returns 256; the bytes before it. R183 does not say what the host does when `DEC_SYM` raises
an error: here the loop ends with no result and the bytes before are not handed on (DESIGN CHOICE, log entry 25). -/
def decodeLoop : Nat → State → Option (List Byte × State)
  | 0, _ => none
  | fuel + 1, s =>
    match runOne .decSym s with
    | none => none
    | some t =>
      if t.err = true then none
      else if t.result = 256#32 then some ([], t)
      else (decodeLoop fuel t).map fun (bs, u) => (t.resultByte :: bs, u)

/-- How a host procedure ends. -/
inductive Procedure (α : Type) where
  | finished (a : α) (s : State)
  /-- `STATUS.FATAL` was seen; the run was abandoned with `FR_ABORT` (R234). -/
  | aborted (s : State)
  /-- A command holds, or the bound on the turns was met. -/
  | unfinished
  deriving DecidableEq, Repr

/-- R234: fail the run. -/
def abandon {α : Type} (s : State) : Procedure α :=
  match runOne .frAbort s with
  | some t => .aborted t
  | none => .unfinished

/-- Issue a command; on `FATAL` abandon the run, else go on (R234). That preview abandons too, and that a plain error
R234 has no branch for is passed over, is log entry 25. -/
def issueOr {α : Type} (i : Instr) (s : State) (go : State → Procedure α) : Procedure α :=
  match runOne i s with
  | none => .unfinished
  | some t => if t.fatalFlag = true then abandon t else go t

/-- R234: `AR_PBYTE` until `RESULT = 0x100`; the path, `got` having been read, latest first. -/
def readPath {α : Type} : Nat → List Byte → State → (List Byte → State → Procedure α) → Procedure α
  | 0, _, _, _ => .unfinished
  | fuel + 1, got, s, go =>
    issueOr .arPbyte s fun t =>
      if t.result = 0x100#32 then go got.reverse t else readPath fuel (t.resultByte :: got) t go

/-- R234: `AR_SYM` until `RESULT = 256` or an error; the bytes, and whether the entry failed. -/
def readPayload {α : Type} : Nat → List Byte → State → (List Byte → Bool → State → Procedure α) → Procedure α
  | 0, _, _, _ => .unfinished
  | fuel + 1, got, s, go =>
    issueOr .arSym s fun t =>
      if t.err = true then go got.reverse true t
      else if t.result = 256#32 then go got.reverse false t
      else readPayload fuel (t.resultByte :: got) t go

/-- What the host is handed for one entry (R227). -/
inductive Extracted where
  | directory (path : List Byte)
  | file (path content : List Byte)
  /-- The entry failed and is logged (R254): the bytes decoded before the failure. -/
  | failed (path content : List Byte)
  deriving DecidableEq, Repr

/-- R234's loop, with `turns` entries at most and `fuel` bytes a field at most. -/
def extractLoop (fuel : Nat) : Nat → List Extracted → State → Procedure (List Extracted)
  | 0, _, _ => .unfinished
  | turns + 1, got, s =>
    issueOr .arEntry s fun t =>
      if t.result = 0#32 then issueOr .arEnd t fun u => .finished got.reverse u
      else if t.result = 1#32 then
        readPath fuel [] t fun p u => extractLoop fuel turns (.directory p :: got) u
      else
        readPath fuel [] t fun p u =>
          issueOr .arFilehdr u fun v =>
            if v.err = true then extractLoop fuel turns (.failed p [] :: got) v
            else
              readPayload fuel [] v fun d bad x =>
                extractLoop fuel turns ((if bad = true then .failed p d else .file p d) :: got) x

/-- R234: extraction. -/
def extract (fuel : Nat) (s : State) : Procedure (List Extracted) :=
  issueOr .arMagic s fun t => issueOr .arSkipm t fun u => extractLoop fuel fuel [] u

/-- R233's loop: `AR_MBYTE` until `RESULT = 0x101`, gathering the paths. -/
def previewLoop : Nat → List Byte → List (List Byte) → State → Procedure (List (List Byte))
  | 0, _, _, _ => .unfinished
  | fuel + 1, got, paths, s =>
    issueOr .arMbyte s fun t =>
      if t.result = 0x101#32 then issueOr .arEnd t fun u => .finished paths.reverse u
      else if t.result = 0x100#32 then previewLoop fuel [] (got.reverse :: paths) t
      else previewLoop fuel (t.resultByte :: got) paths t

/-- R233: preview. -/
def preview (fuel : Nat) (s : State) : Procedure (List (List Byte)) :=
  issueOr .arMagic s fun t => previewLoop fuel [] [] t

/-- What extraction hands the host for an archived entry. -/
def extractedOf (e : ArchiveEntry) : Extracted :=
  match e.content with
  | none => .directory e.path
  | some d => .file e.path d

end Sys2Proof.Machine
end

