-- ==== Sys2Proof/Safety.lean ====
section
/-! DEFINITION. What counts as a safe state and a safe run, and the terms the claims use: the outcome of a command
without the shared operations, the phases and phase moves of the framer's tables, the leaves and depths of a tree, and
the bits a reader has ahead of it. -/

namespace Sys2Proof.Machine

/-! ## The outcome of a command, written out -/

/-- A command that succeeded and changed nothing but what R251 clears. -/
def State.completed (s : State) : State :=
  { s with busy := false, err := false, endf := false, sent := false, errcode := .noError }

/-- A command that raised `e(info)` and changed nothing else (R252). -/
def State.failed (s : State) (e : ErrCode) (info : Word) : State :=
  { s with busy := false, err := true, endf := false, sent := false, errcode := e, result := info }

/-- A command that holds (R57): `BUSY` is 1, the rest as before. -/
def State.held (s : State) : State := { s with busy := true }

/-! ## Trees -/

/-- The labels of the leaves, left to right. -/
def CodeTree.labels : CodeTree → List Symbol
  | .leaf s => [s]
  | .node l r => l.labels ++ r.labels

/-- Each leaf's label with its depth, counted from `d` at the root (R135). -/
def CodeTree.depths : CodeTree → Nat → List (Symbol × Nat)
  | .leaf s, d => [(s, d)]
  | .node l r, d => l.depths (d + 1) ++ r.depths (d + 1)

/-- Each leaf's label with its path from the root, `p` being the path to the root (R160's walk). -/
def CodeTree.paths : CodeTree → Bits → List (Symbol × Bits)
  | .leaf s, p => [(s, p)]
  | .node l r, p => l.paths (p ++ [false]) ++ r.paths (p ++ [true])

/-- The root is a `Node`. -/
def CodeTree.isNode : CodeTree → Bool
  | .leaf _ => false
  | .node _ _ => true

/-- R30 (a) and (c); (b) and (d) follow, a `Node` having two children by its form. -/
abbrev CodeTree.Ok (t : CodeTree) : Prop := t.isNode = true ∧ t.labels.Nodup

/-- R32 and R161: codes have 1 to 255 bits, and no code is a prefix of another. -/
def CodeTable.Ok (c : CodeTable) : Prop :=
  (∀ a x, entry c a = some x → 1 ≤ x.length ∧ x.length ≤ 255) ∧
    ∀ a b x y, a ≠ b → entry c a = some x → entry c b = some y → ¬ x <+: y

/-- The sum of the Kraft equality (R11). -/
def kraftSum (len : LenTable) : Rat :=
  (allSymbols.map fun s => if (entry len s).toNat = 0 then (0 : Rat) else (1 / 2 : Rat) ^ (entry len s).toNat).sum

/-! ## Streams -/

/-- The bits of its byte a reader has not returned, next first (R101). -/
def BitReader.pending (r : BitReader) : Bits := (List.range r.rem).map fun i => r.buf.getLsbD (r.rem - 1 - i)

/-- The bits the reader can return before the end of what IN holds, next first; none when it is closed (R101). -/
def State.bitsAhead (s : State) : Bits :=
  if s.br.closed = true then [] else s.br.pending ++ bitsOfBytes s.inq

/-- The bits written to OUT and to the BitWriter, oldest first. -/
def State.bitsWritten (s : State) : Bits := bitsOfBytes s.out ++ s.bw

/-- Every byte the core has ever emitted since reset that the model still knows: drained ones, then waiting ones. -/
def State.emitted (s : State) : List Byte := s.received ++ s.out

/-- `byte(x)` of R107 as its formula: `Σ x[i] · 2^(7−i)`. -/
def weightedByte (x : Bits) : Byte :=
  BitVec.ofNat 8 ((List.range 8).map fun i => (x.getD i false).toNat * 2 ^ (7 - i)).sum

/-! ## The greedy pairing of R130, as a relation -/

/-- `Greedy k P t`: pairing the entries `P` greedily, `k` internal nodes having been made, ends in the tree `t`. At each
turn `x` is the entry of the least key, `y` the least of the others (R132, R133). -/
inductive Greedy : Nat → List Candidate → CodeTree → Prop where
  | one (k : Nat) (x : Candidate) : Greedy k [x] x.tree
  | pair {k : Nat} {P rest : List Candidate} {x y : Candidate} {t : CodeTree}
      (whole : P.Perm (x :: y :: rest))
      (first : ∀ z ∈ y :: rest, x.before z = true) (second : ∀ z ∈ rest, y.before z = true)
      (next : Greedy (k + 1) (rest ++ [⟨x.w + y.w, 257 + k, .node x.tree y.tree⟩]) t) : Greedy k P t

/-- The initial entries of R131: a leaf for each positive symbol, then leaves of weight 0 for the smallest other symbols
until there are two entries. -/
def initialEntries (f : FreqTable) : List Candidate :=
  let positive := allSymbols.filter fun a => decide (0 < entry f a)
  let unused := allSymbols.filter fun a => decide (entry f a = 0)
  (positive ++ unused.take (2 - positive.length)).map fun a => ⟨entry f a, a.val, .leaf a⟩

/-! ## The framer's phases -/

/-- The phases a framer command's rule lists (R193 to R202, R210, R221); nothing for the commands that do not check
`FPH` (R204), `FR_ABORT` among them (R232). -/
def phasesOf : Instr → Option (List Phase)
  | .awBegin => some [.idle]
  | .awPbyte _ => some [.wManifest, .wMpath, .wDpath, .wFpath]
  | .awPend => some [.wManifest, .wMpath, .wDpath, .wFpath]
  | .awMend => some [.wManifest]
  | .awDir => some [.wBlocks]
  | .awFile => some [.wBlocks]
  | .awCount _ => some [.wFcount]
  | .awFilehdr => some [.wFcount]
  | .awSym _ => some [.wPayload]
  | .awFend => some [.wPayload]
  | .awEnd => some [.wBlocks]
  | .arMagic => some [.idle]
  | .arMbyte => some [.rManifest]
  | .arSkipm => some [.rManifest]
  | .arEntry => some [.rEntry]
  | .arPbyte => some [.rDpath, .rFpath]
  | .arFilehdr => some [.rLens]
  | .arSym => some [.rPayload]
  | .arEnd => some [.rEntry, .rDone]
  | .nop | .srst | .brOpen | .brGet | .brClose | .bwPut _ | .bwClose | .freqClr | .freqInc _ | .freqGet _
  | .treeBuild | .lenFromTree | .treeFromLen | .lenGet _ | .lenSet _ _ | .lenClr | .lenEmit | .lenLoad
  | .codeGen | .codeLen _ | .codeBit _ _ | .encSym _ | .encEnd | .decSym | .frAbort => none

/-- The phases the tables of R204 and R221 let a command move to from a phase. -/
def phaseMoves : Instr → Phase → List Phase
  | .awBegin, .idle => [.wManifest]
  | .awPbyte _, .wManifest => [.wMpath]
  | .awPend, .wMpath => [.wManifest]
  | .awPend, .wDpath => [.wBlocks]
  | .awPend, .wFpath => [.wFcount]
  | .awMend, .wManifest => [.wBlocks]
  | .awDir, .wBlocks => [.wDpath]
  | .awFile, .wBlocks => [.wFpath]
  | .awCount _, .wFcount => [.fatal]
  | .awFilehdr, .wFcount => [.wPayload, .fatal]
  | .awSym _, .wPayload => [.fatal]
  | .awFend, .wPayload => [.wBlocks, .fatal]
  | .awEnd, .wBlocks => [.idle]
  | .arMagic, .idle => [.rManifest, .fatal]
  | .arMbyte, .rManifest => [.rEntry, .fatal]
  | .arSkipm, .rManifest => [.rEntry, .fatal]
  | .arEntry, .rEntry => [.rDpath, .rFpath, .rDone, .fatal]
  | .arPbyte, .rDpath => [.rEntry, .fatal]
  | .arPbyte, .rFpath => [.rLens, .fatal]
  | .arFilehdr, .rLens => [.rPayload, .rEntry, .fatal]
  | .arSym, .rPayload => [.rEntry]
  | .arEnd, .rEntry => [.idle]
  | .arEnd, .rDone => [.idle]
  | .frAbort, _ => [.idle]
  | .srst, _ => [.idle]
  | _, _ => []

/-- The commands that read IN (R64). -/
def readsIn : Instr → Bool
  | .brGet => true
  | .decSym => true
  | .lenLoad => true
  | .arMagic => true
  | .arMbyte => true
  | .arSkipm => true
  | .arEntry => true
  | .arPbyte => true
  | .arFilehdr => true
  | .arSym => true
  | _ => false

/-- The commands that restart IN (R54). -/
def restartsIn : Instr → Bool
  | .srst => true
  | .arEnd => true
  | .frAbort => true
  | _ => false

/-! ## Safe states -/

/-- What holds at reset and after every step (R6, R27, R29, R30, R32, R33, R34, R103, R201, R229). -/
structure State.Inv (s : State) : Prop where
  /-- R6: the constraints on the parameters. -/
  cfgValid     : s.cfg.Valid
  /-- R29, R125: a counter is in `0..CNT_MAX`. -/
  freqBounded  : ∀ a, entry s.freq a ≤ s.cfg.cntMax
  /-- R30: the tree's invariants. -/
  treeOk       : ∀ t, s.tree = some t → t.Ok
  /-- R32, R161: the code table's. -/
  codeOk       : ∀ c, s.code = some c → CodeTable.Ok c
  /-- R33: `BW.cnt` is 0 to 7. -/
  bwShort      : s.bw.length ≤ 7
  /-- R34: `BR.rem` is 0 to 8. -/
  remBounded   : s.br.rem ≤ 8
  /-- R103, R106: a closed reader holds nothing. -/
  closedEmpty  : s.br.closed = true → s.br.rem = 0 ∧ s.br.buf = 0x00#8
  /-- R229: `TREE ≠ none` in `R_PAYLOAD`. -/
  payloadTree  : s.fph = .rPayload → s.tree.isSome = true
  /-- R201: `CODE ≠ none` in `W_PAYLOAD`. -/
  payloadCode  : s.fph = .wPayload → s.code.isSome = true
  /-- R24: the core is busy only with a command. -/
  busyWithWord : s.busy = true → s.cmdq ≠ []

/-- A host move inside the interface (R52, R61). -/
def moveAllowed (s : State) : HostMove → Bool
  | .read width off => accessDefined width off
  | .write width off _ => accessDefined width off
  | .push _ => !s.eos
  | .setEos => !s.eos
  | .drain => true
  | .hardReset => true

/-- The next move is the core's, or a host move inside the interface. -/
def nextMoveAllowed (s : State) : Bool :=
  match s.schedule with
  | [] => true
  | .core :: _ => true
  | .host m :: _ => moveAllowed s m

/-- The states a run from `s` comes to. -/
inductive Reaches : State → State → Prop where
  | here (s : State) : Reaches s s
  | onward {s t u : State} : Reaches s t → step t = .next u → Reaches s u

end Sys2Proof.Machine
end

