-- ==== Sys2Proof/WellFormed.lean ====
section
/-! DEFINITION. Well-formed commands: the one check on operands that the widths of the fields leave open is the symbol
range of classes S and SV (R71: a symbol "must be ≤ 256 or the command raises `SYMBOL_RANGE`"). -/

namespace Sys2Proof

/-- R71: a symbol operand is in range when it is at most 256. -/
abbrev symbolInRange (a : BitVec 9) : Bool := decide (a.toNat ≤ 256)

/-- Every operand of the command is one its class admits (R71, R72). -/
def Instr.wellFormed : Instr → Bool
  | .nop => true
  | .srst => true
  | .brOpen => true
  | .brGet => true
  | .brClose => true
  | .bwPut _ => true
  | .bwClose => true
  | .freqClr => true
  | .freqInc a => symbolInRange a
  | .freqGet a => symbolInRange a
  | .treeBuild => true
  | .lenFromTree => true
  | .treeFromLen => true
  | .lenGet a => symbolInRange a
  | .lenSet a _ => symbolInRange a
  | .lenClr => true
  | .lenEmit => true
  | .lenLoad => true
  | .codeGen => true
  | .codeLen a => symbolInRange a
  | .codeBit a _ => symbolInRange a
  | .encSym a => symbolInRange a
  | .encEnd => true
  | .decSym => true
  | .awBegin => true
  | .awPbyte _ => true
  | .awPend => true
  | .awMend => true
  | .awDir => true
  | .awFile => true
  | .awCount _ => true
  | .awFilehdr => true
  | .awSym _ => true
  | .awFend => true
  | .awEnd => true
  | .arMagic => true
  | .arMbyte => true
  | .arSkipm => true
  | .arEntry => true
  | .arPbyte => true
  | .arFilehdr => true
  | .arSym => true
  | .arEnd => true
  | .frAbort => true

end Sys2Proof
end

