-- ==== Sys2Proof/Certificates/Slice0/Obligations.lean ====
section
/-! DEFINITION. The statements for the provers, from the numbered rules of the spec. -/

open Sys2Proof Sys2Proof.Machine

/-! ## Encoding (30_encoding.md) -/

/-- R70 to R77: decoding the word of a well-formed command gives the command back, at every value of every operand. -/
def Obligations.DecodeOfEncodeIsTheCommand : Prop :=
  ∀ i : Instr, i.wellFormed = true → decode (encode i) = .ok i

/-- R70 to R77: a word that decodes to a command is that command's word, and the command is well formed; so no two words
decode to one command. -/
def Obligations.DecodedWordIsTheEncoding : Prop :=
  ∀ (w : Word) (i : Instr), decode w = .ok i → encode i = w ∧ i.wellFormed = true

/-- R74, R76: every word matches at most one row of the opcode map; a word that matches a row is that row's command with
the operands of the word's fields, unless its symbol is above 256, which raises `SYMBOL_RANGE`; any other word raises
`ILLEGAL_CMD`. Neither error changes anything but the status (R252). -/
def Obligations.EveryWordRunsOrOnlyReports : Prop :=
  ∀ (w : Word) (s : State),
    (∀ row ∈ opcodeMap, w &&& row.opClass.mask = row.op.setWidth 32 →
      (∀ other ∈ opcodeMap, w &&& other.opClass.mask = other.op.setWidth 32 → other = row) ∧
      (row.opClass.takesSymbol = true → 256 < (w.extractLsb' 8 9).toNat →
        runWord w s = .next (s.failed .symbolRange ((w.extractLsb' 8 9).setWidth 32))) ∧
      ((row.opClass.takesSymbol = true → (w.extractLsb' 8 9).toNat ≤ 256) →
        ∃ i, i.row = row ∧ i.aOperand = w.extractLsb' 8 9 ∧ i.vOperand = w.extractLsb' 17 8 ∧
          decode w = .ok i ∧ runWord w s = exec i s)) ∧
    ((∀ row ∈ opcodeMap, w &&& row.opClass.mask ≠ row.op.setWidth 32) →
      runWord w s = .next (s.failed .illegalCmd w))

/-- R77's example words, and two words no row matches. -/
def Obligations.WordsOfTheSpecDecode : Prop :=
  decode 0x00004121#32 = .ok (.freqInc 0x41#9) ∧ decode 0x00010021#32 = .ok (.freqInc 256#9) ∧
  decode 0x00024143#32 = .ok (.lenSet 0x41#9 1#8) ∧ decode 0x00044152#32 = .ok (.codeBit 0x41#9 2#8) ∧
  decode 0x00000118#32 = .ok (.bwPut true) ∧ decode 0x00006171#32 = .ok (.awPbyte 0x61#8) ∧
  decode 0x00000030#32 = .ok .treeBuild ∧ decode 0x0000008F#32 = .ok .frAbort ∧
  decode 0x00000002#32 = .error (.illegalCmd 0x00000002#32) ∧
  decode 0x00000218#32 = .error (.illegalCmd 0x00000218#32)

/-! ## The machine's step (R23, R57, R58) -/

/-- A core step runs the decoded command: when it is the core's turn and the word at the port decodes to `i`, the step
is `exec i`; a command that completed leaves the port, and one that holds stays at its front. The schedule is the
model's own (log entry 3). -/
def Obligations.StepRunsTheDecodedCommand : Prop :=
  ∀ (s : State) (w : Word) (rest : List Word) (i : Instr), s.cmdq = w :: rest → decode w = .ok i →
    ∀ moves : List Move, s.schedule = [] ∧ moves = [] ∨ s.schedule = .core :: moves →
      (∀ t, exec i { s with schedule := moves } = .next t → t.busy = false → step s = .next { t with cmdq := rest }) ∧
      (∀ t, exec i { s with schedule := moves } = .next t → t.busy = true → step s = .next t) ∧
      (∀ r, exec i { s with schedule := moves } = .fault r → step s = .fault r)

/-- R74, R251, R252: a core step on a word that decodes to no command reports the word, or the symbol, and takes the word
off the port, changing nothing else; and a core with no word waits (R262). The schedule and the waiting step are the
model's own (log entries 3 and 4). -/
def Obligations.StepReportsRejectedWordsAndWaits : Prop :=
  ∀ (s : State) (moves : List Move), s.schedule = [] ∧ moves = [] ∨ s.schedule = .core :: moves →
    (∀ w rest, s.cmdq = w :: rest →
      (∀ v, decode w = .error (.illegalCmd v) →
        v = w ∧ step s = .next { s.failed .illegalCmd w with cmdq := rest, schedule := moves }) ∧
      ∀ a, decode w = .error (.symbolRange a) →
        a = w.extractLsb' 8 9 ∧
        step s = .next { s.failed .symbolRange (a.setWidth 32) with cmdq := rest, schedule := moves }) ∧
    (s.cmdq = [] → step s = .next { s with schedule := moves })

/-- R57: a command that holds leaves every other register and all state as before it started. -/
def Obligations.HoldingCommandChangesOnlyBusy : Prop :=
  ∀ (i : Instr) (s t : State), exec i s = .next t → t.busy = true → t = s.held

/-- R58, R53, R64: only the commands that read IN hold, and only while IN has not ended; with `eos` set every command runs
to its end. R58 holds a command on a full OUT buffer too; that none does here is R55's unbounded OUT (log entry 17). -/
def Obligations.CommandsHoldOnlyForInput : Prop :=
  ∀ (i : Instr) (s t : State), exec i s = .next t → t.busy = true → s.eos = false ∧ readsIn i = true

/-- R59, R64, R54: what every command leaves alone. It changes neither the configuration nor the words at the port nor
the model's record of the host; OUT only grows at its end; IN is taken from the front, unless the command restarts it.
That `SRST` keeps the words at the port is the model's choice (log entry 7). -/
def Obligations.CommandsKeepStreamOrder : Prop :=
  ∀ (i : Instr) (s t : State), exec i s = .next t →
    t.cfg = s.cfg ∧ t.cmdq = s.cmdq ∧ t.schedule = s.schedule ∧ t.reads = s.reads ∧ t.received = s.received ∧
    s.out <+: t.out ∧
    (t.inq <:+ s.inq ∧ t.eos = s.eos ∨ restartsIn i = true ∧ t.inq = [] ∧ t.eos = false)

/-- R10, R255, R257: a command that reports an error leaves the tables, the trees, the BitWriter and OUT as they were;
its phase is unchanged, or `FATAL`, or `R_ENTRY`. -/
def Obligations.FailedCommandsLeaveTables : Prop :=
  ∀ (i : Instr) (s t : State), exec i s = .next t → t.busy = false → t.err = true →
    t.freq = s.freq ∧ t.tree = s.tree ∧ t.len = s.len ∧ t.code = s.code ∧ t.bw = s.bw ∧ t.out = s.out ∧
    t.eos = s.eos ∧ t.sent = false ∧ (t.fph = s.fph ∨ t.fph = .fatal ∨ t.fph = .rEntry)

/-- R26, R250, R182: after a completed command `ERRCODE` is `NONE` exactly when `ERR` is 0, and never `BAD_BIT`. -/
def Obligations.ErrAndErrcodeAgree : Prop :=
  ∀ (i : Instr) (s t : State), exec i s = .next t → t.busy = false →
    (t.err = true ↔ t.errcode ≠ .noError) ∧ t.errcode ≠ .badBit

/-- R204, R221: a framer command in a phase its rule does not list raises `SEQUENCE` with the current `FPH` and changes
nothing else. -/
def Obligations.WrongPhaseRaisesSequence : Prop :=
  ∀ (i : Instr) (ps : List Phase) (s : State), phasesOf i = some ps → s.fph ∉ ps →
    exec i s = .next (s.failed .sequence (s.fph.code.setWidth 32))

/-- R35, R204, R221, R202: `FPH` moves only along the two tables, and from `W_PAYLOAD` to `FATAL` on `AW_FEND`, which is
R202's `raise_fatal` (R253) and not in R204's table; non-framer commands do not move it. -/
def Obligations.PhasesMoveAlongTheTables : Prop :=
  ∀ (i : Instr) (s t : State), exec i s = .next t → t.fph = s.fph ∨ t.fph ∈ phaseMoves i s.fph

/-- R253: of all the machine's moves, only a core step that runs `FR_ABORT` or `SRST`, and hardware reset, leave
`FATAL`. -/
def Obligations.FatalIsLeftOnlyByAbortOrReset : Prop :=
  ∀ s t : State, s.fph = .fatal → step s = .next t → t.fph ≠ .fatal →
    (∃ rest, s.schedule = .host .hardReset :: rest) ∨
    ((s.schedule = [] ∨ ∃ rest, s.schedule = .core :: rest) ∧
      ∃ w rest, s.cmdq = w :: rest ∧ (decode w = .ok .frAbort ∨ decode w = .ok .srst))

/-! ## Invariants and safety -/

/-- R41, R270, R272: what the reset state holds, value by value, in the block's configuration. -/
def Obligations.ResetHoldsTheSpecValues : Prop :=
  ∀ c : Config,
    let s := State.resetWith c
    s.readRegister 0x04 = 0x00000000#32 ∧ s.readRegister 0x08 = 0x00000000#32 ∧
    s.readRegister 0x0C = 0x00000000#32 ∧ s.readRegister 0x10 = 0x10000000#32 ∧
    s.busy = false ∧ s.err = false ∧ s.endf = false ∧ s.sent = false ∧ s.result = 0#32 ∧ s.errcode = .noError ∧
    (∀ a, entry s.freq a = 0) ∧ s.tree = none ∧ (∀ a, entry s.len a = 0x00#8) ∧ s.code = none ∧
    s.bw = [] ∧ s.br = ⟨0x00#8, 0, true⟩ ∧ s.fph = .idle ∧ s.cmdq = [] ∧
    s.inq = [] ∧ s.eos = false ∧ s.out = [] ∧ s.cfg = c

/-- The state after reset is safe in every valid configuration (R41, R270). -/
def Obligations.ResetStateIsSafe : Prop :=
  ∀ c : Config, c.Valid → (State.resetWith c).Inv

/-- Every step of either agent keeps the invariant: counters at or below `CNT_MAX` (R29), the tree full with distinct
labels (R30), codes of 1 to 255 bits and prefix-free (R32, R161), `BW` and `BR` in range (R33, R34, R103), a tree in
`R_PAYLOAD` (R229), a code table in `W_PAYLOAD` (R201), busy only with a command (R24). -/
def Obligations.EveryStepKeepsTheInvariant : Prop :=
  ∀ s t : State, s.Inv → step s = .next t → t.Inv

/-- From a safe state no step faults, and a step refuses only a host move outside the interface (R52, R61, R252). The
model's choices in it: an idle core steps (log entry 4), setting `eos` twice is refused (9), a drain of an empty OUT is
not (10), an access beyond the window is (23). -/
def Obligations.SafeStatesStepOn : Prop :=
  ∀ s : State, s.Inv → (∀ r, step s ≠ .fault r) ∧ (nextMoveAllowed s = true → ∃ t, step s = .next t)

/-- R252, R58: from a safe state every command answers a next state, and with IN ended it runs to its end; so the
reconstruction in `AW_FILEHDR` never fails (R200, R146). That no command holds on a full OUT buffer is R55's unbounded OUT
(log entry 17). What the answer is, the statements of the commands say. -/
def Obligations.EveryCommandAnswers : Prop :=
  ∀ (i : Instr) (s : State), s.Inv → ∃ t, exec i s = .next t ∧ (s.eos = true → t.busy = false)

/-! ## The host's side (10_state.md, 20_memory.md) -/

/-- R22 to R28: what each register of the window reads, bit field by bit field, with the numbers of the phases (R35) and
of the errors (R250). -/
def Obligations.RegisterWindowReadsItsFields : Prop :=
  ∀ s : State, s.bw.length ≤ 7 → s.br.rem ≤ 8 → s.cfg.Valid →
    s.readRegister 0x00 = 0#32 ∧
    (let w := s.readRegister 0x04
     w.getLsbD 0 = s.busy ∧ w.getLsbD 1 = s.err ∧ w.getLsbD 2 = decide (s.fph = .fatal) ∧ w.getLsbD 3 = s.endf ∧
     w.getLsbD 4 = s.sent ∧ w.getLsbD 5 = s.tree.isSome ∧ w.getLsbD 6 = s.code.isSome ∧
     w.extractLsb' 7 5 = 0#5 ∧ w.extractLsb' 12 4 = s.fph.code ∧ w.extractLsb' 16 16 = 0#16) ∧
    (s.fph, s.fph.code) ∈
      [(Phase.idle, 0#4), (.wManifest, 1#4), (.wMpath, 2#4), (.wBlocks, 3#4), (.wDpath, 4#4), (.wFpath, 5#4),
       (.wFcount, 6#4), (.wPayload, 7#4), (.rManifest, 8#4), (.rEntry, 9#4), (.rDpath, 10#4), (.rFpath, 11#4),
       (.rLens, 12#4), (.rPayload, 13#4), (.rDone, 14#4), (.fatal, 15#4)] ∧
    s.readRegister 0x08 = s.result ∧
    (s.errcode, s.readRegister 0x0C) ∈
      [(ErrCode.noError, 0x00#32), (.illegalCmd, 0x01#32), (.sequence, 0x02#32), (.symbolRange, 0x03#32),
       (.counterOverflow, 0x04#32), (.noTree, 0x05#32), (.noCode, 0x06#32), (.indexRange, 0x07#32),
       (.lengthOverflow, 0x08#32), (.nonCanonical, 0x09#32), (.truncated, 0x0A#32), (.badMagic, 0x0B#32),
       (.badTag, 0x0C#32), (.badPathByte, 0x0D#32), (.badBit, 0x0E#32)] ∧
    (let w := s.readRegister 0x10
     (∀ i b, s.bw[i]? = some b → w.getLsbD (s.bw.length - 1 - i) = b) ∧
     (∀ i, s.bw.length ≤ i → i < 8 → w.getLsbD i = false) ∧ (w.extractLsb' 8 3).toNat = s.bw.length ∧
     w.extractLsb' 11 5 = 0#5 ∧ w.extractLsb' 16 8 = s.br.buf ∧ (w.extractLsb' 24 4).toNat = s.br.rem ∧
     w.getLsbD 28 = s.br.closed ∧ w.extractLsb' 29 3 = 0#3) ∧
    (let w := s.readRegister 0x14
     w.extractLsb' 0 8 = s.cfg.magic0 ∧ w.extractLsb' 8 8 = s.cfg.magic1 ∧ w.extractLsb' 16 8 = s.cfg.tagDir ∧
     w.extractLsb' 24 8 = s.cfg.tagFile) ∧
    (let w := s.readRegister 0x18
     w.extractLsb' 0 8 = s.cfg.mend ∧ (w.extractLsb' 8 6).toNat = s.cfg.cntW ∧ w.extractLsb' 14 18 = 0#18) ∧
    (s.readRegister 0x1C).toNat = s.cfg.cntMax ∧
    ∀ off, 0x20 ≤ off → off < 0x40 → s.readRegister off = 0#32

/-- R22, R61: a host access that is not 32 bits wide, aligned and inside the window is refused; a defined read gives the
register and changes nothing of the core; a defined write changes nothing unless it is to `CMD`, where the word joins
the words that wait (R23). The model's choices in it: the refusal of an access from offset 64 up (log entry 23) and
`BUSY` set at the write (log entry 6). -/
def Obligations.HostAccessesFollowTheWindow : Prop :=
  ∀ (s : State) (width off : Nat) (v : Word),
    (¬ (width = 32 ∧ off % 4 = 0 ∧ off < 64) →
      hostStep (.read width off) s = .refused .badAccess ∧ hostStep (.write width off v) s = .refused .badAccess) ∧
    (width = 32 → off % 4 = 0 → off < 64 →
      hostStep (.read width off) s = .next { s with reads := s.reads ++ [s.readRegister off] } ∧
      (off ≠ 0 → hostStep (.write width off v) s = .next s)) ∧
    hostStep (.write 32 0 v) s = .next { s with cmdq := s.cmdq ++ [v], busy := true }

/-- R23: words the host writes to `CMD` one after another wait in the order written, and none is dropped. -/
def Obligations.CommandWordsKeepTheirOrder : Prop :=
  ∀ (s : State) (ws : List Word) (moves : List Move),
    s.schedule = ws.map (fun w => Move.host (.write 32 0 w)) ++ moves →
    ∃ t, Host.Core.run Sys2Proof.core ws.length s = .next t ∧ t.cmdq = s.cmdq ++ ws ∧ t.schedule = moves

/-- R52, R55, R281: the host ends of the streams; appending after `eos`, or setting it twice, is outside the interface
(the second being the model's reading, log entry 9); a drain of an empty OUT has no effect (log entry 10). -/
def Obligations.StreamPortsFollowTheRules : Prop :=
  ∀ (s : State) (b : Byte),
    (s.eos = false → hostStep (.push b) s = .next { s with inq := s.inq ++ [b] } ∧
      hostStep .setEos s = .next { s with eos := true }) ∧
    (s.eos = true → hostStep (.push b) s = .refused .appendAfterEos ∧ hostStep .setEos s = .refused .eosSetTwice) ∧
    (∀ rest, s.out = b :: rest →
      hostStep .drain s = .next { s with out := rest, received := s.received ++ [b] }) ∧
    (s.out = [] → hostStep .drain s = .next s)

/-- R59, R55: OUT bytes reach the host in the order of the `OutWrite`s: what the host has drained followed by what
waits only grows at its end, whatever moves, except that hardware reset empties OUT (R272). -/
def Obligations.EmittedBytesKeepTheirOrder : Prop :=
  ∀ s t : State, step s = .next t → (∀ rest, s.schedule ≠ .host .hardReset :: rest) → s.emitted <+: t.emitted

/-- R270, R272: hardware reset, in whatever state, gives the reset state of the block's configuration; the record of the
host stays (log entry 21). -/
def Obligations.HardResetGivesTheResetState : Prop :=
  ∀ (s : State) (moves : List Move), s.schedule = .host .hardReset :: moves →
    step s = .next { State.resetWith s.cfg with schedule := moves, reads := s.reads, received := s.received }

/-! ## Control (40_control.md) -/

/-- R90, R91, R271: `NOP` does only the command-start clearing; `SRST` gives the reset state, OUT excepted. The words
still waiting at the port stay (log entry 7). -/
def Obligations.NopAndSrst : Prop :=
  encode .nop = 0x00000000#32 ∧ encode .srst = 0x00000001#32 ∧
  ∀ s : State,
    exec .nop s = .next { s with busy := false, err := false, endf := false, sent := false, errcode := .noError } ∧
    exec .srst s = .next { State.resetWith s.cfg with
      out := s.out, cmdq := s.cmdq, schedule := s.schedule, reads := s.reads, received := s.received }

/-! ## BitReader and BitWriter (41_bitstream.md) -/

/-- R102, R104, R105, R106 with the primitive of R101: opening and closing the reader, and a bit read in each of its
cases. -/
def Obligations.BitReaderCommands : Prop :=
  encode .brOpen = 0x00000010#32 ∧ encode .brGet = 0x00000011#32 ∧ encode .brClose = 0x00000012#32 ∧
  ∀ s : State,
    exec .brOpen s = .next { s.completed with br := ⟨0x00#8, 0, false⟩ } ∧
    exec .brClose s = .next { s.completed with br := ⟨0x00#8, 0, true⟩ } ∧
    (s.br.closed = true → exec .brGet s = .next { s.completed with result := 2#32, endf := true }) ∧
    (s.br.closed = false → s.br.rem ≠ 0 →
      exec .brGet s = .next { s.completed with
        result := if s.br.buf.getLsbD (s.br.rem - 1) = true then 1#32 else 0#32
        br := ⟨s.br.buf, s.br.rem - 1, false⟩ }) ∧
    (∀ c q, s.br.closed = false → s.br.rem = 0 → s.inq = c :: q →
      exec .brGet s = .next { s.completed with
        result := if c.getLsbD 7 = true then 1#32 else 0#32, inq := q, br := ⟨c, 7, false⟩ }) ∧
    (s.br.closed = false → s.br.rem = 0 → s.inq = [] → s.eos = true →
      exec .brGet s = .next { s.completed with result := 2#32, endf := true }) ∧
    (s.br.closed = false → s.br.rem = 0 → s.inq = [] → s.eos = false → exec .brGet s = .next s.held)

/-- R110, R111 with the primitives of R108 and R109: a bit is appended, the eighth flushes a byte whose most significant
bit came first (R107), and closing pads a partial byte with zeros and writes nothing for an empty one. -/
def Obligations.BitWriterCommands : Prop :=
  encode (.bwPut false) = 0x00000018#32 ∧ encode (.bwPut true) = 0x00000118#32 ∧ encode .bwClose = 0x00000019#32 ∧
  ∀ s : State,
    (∀ t, s.bw.length < 7 → exec (.bwPut t) s = .next { s.completed with bw := s.bw ++ [t] }) ∧
    (∀ t, s.bw.length = 7 →
      exec (.bwPut t) s = .next { s.completed with bw := [], out := s.out ++ [weightedByte (s.bw ++ [t])] }) ∧
    (s.bw = [] → exec .bwClose s = .next s.completed) ∧
    (0 < s.bw.length → s.bw.length ≤ 7 →
      exec .bwClose s = .next { s.completed with
        bw := [], out := s.out ++ [weightedByte (s.bw ++ List.replicate (8 - s.bw.length) false)] })

/-- R112: from an empty BitWriter, `n` bits and a close write `ceil(n / 8)` bytes, which read back most significant bit
first as the `n` bits and then zeros. -/
def Obligations.ClosedBitsFillWholeBytes : Prop :=
  ∀ (s : State) (x : Bits), s.bw = [] →
    ∃ bytes, runClean (x.map Instr.bwPut ++ [.bwClose]) s = some { s.completed with out := s.out ++ bytes } ∧
      bytes.length = (x.length + 7) / 8 ∧
      bitsOfBytes bytes = x ++ List.replicate (8 * ((x.length + 7) / 8) - x.length) false

/-! ## Frequency counter (42_frequency.md) -/

/-- R120, R121: clearing, and counting with its checked `+1`; an out-of-range symbol and a counter at `CNT_MAX` are
reported and change no counter. -/
def Obligations.FrequencyCommands : Prop :=
  encode .freqClr = 0x00000020#32 ∧
  (∀ a : BitVec 9, encode (.freqInc a) = a.setWidth 32 <<< 8 ||| 0x21#32) ∧
  ∀ s : State,
    (∃ f, exec .freqClr s = .next { s.completed with freq := f } ∧ ∀ x, entry f x = 0) ∧
    ∀ a : BitVec 9,
      (256 < a.toNat → exec (.freqInc a) s = .next (s.failed .symbolRange (a.setWidth 32))) ∧
      ∀ x : Symbol, x.val = a.toNat →
        (entry s.freq x = s.cfg.cntMax →
          exec (.freqInc a) s = .next (s.failed .counterOverflow (BitVec.ofNat 32 x.val))) ∧
        (entry s.freq x ≠ s.cfg.cntMax →
          ∃ f, exec (.freqInc a) s = .next { s.completed with freq := f } ∧ entry f x = entry s.freq x + 1 ∧
            ∀ y, y ≠ x → entry f y = entry s.freq y)

/-- R122: reading a counter. On an out-of-range symbol the operand is written to `RESULT`, as R252 has it for every
error, where R122 says `RESULT` is unchanged: that clause is the model's choice (log entry 18). -/
def Obligations.CounterReads : Prop :=
  (∀ a : BitVec 9, encode (.freqGet a) = a.setWidth 32 <<< 8 ||| 0x22#32) ∧
  ∀ (s : State) (a : BitVec 9),
    (256 < a.toNat → exec (.freqGet a) s = .next (s.failed .symbolRange (a.setWidth 32))) ∧
    ∀ x : Symbol, x.val = a.toNat →
      exec (.freqGet a) s = .next { s.completed with result := BitVec.ofNat 32 (entry s.freq x) }

/-- R124: a counting pass over an `N`-byte file raises no error exactly when no byte value occurs more than `CNT_MAX`
times, and then the counters sum to `N + 1`, the sentinel's is 1 and each byte's is its number of occurrences. -/
def Obligations.CountingPassConservesFrequency : Prop :=
  ∀ (s : State) (d : List Byte), s.cfg.Valid →
    ((runClean (countingPass d) s).isSome = true ↔ ∀ b, d.count b ≤ s.cfg.cntMax) ∧
    ∀ t, runClean (countingPass d) s = some t →
      (allSymbols.map (entry t.freq)).sum = d.length + 1 ∧ entry t.freq sentinel = 1 ∧
      ∀ b, entry t.freq (byteSymbol b) = d.count b

/-! ## Tree builder (43_tree_builder.md) -/

/-- R131, R133, R134: `TREE_BUILD` answers for every frequency table, with a full tree whose leaves are the positive
symbols, padded with the smallest unused symbols up to two. -/
def Obligations.TreeBuildMakesAFullTree : Prop :=
  encode .treeBuild = 0x00000030#32 ∧
  ∀ s : State, ∃ t, exec .treeBuild s = .next { s.completed with tree := some t } ∧
    t.isNode = true ∧ t.labels.Nodup ∧
    (∀ a, 0 < entry s.freq a → a ∈ t.labels) ∧
    t.labels.length = max 2 (allSymbols.filter fun a => decide (0 < entry s.freq a)).length ∧
    ∀ a ∈ t.labels, entry s.freq a = 0 → ∀ b, b < a → entry s.freq b = 0 → b ∈ t.labels

/-- R131, R132, R133: the tree `TREE_BUILD` stores is the one that pairing the initial entries greedily by the key
`(weight, t)` ends in, the entry taken first on the left; and no other tree is, so it depends on `FREQ` alone (R136). -/
def Obligations.TreeBuildPairsGreedily : Prop :=
  encode .treeBuild = 0x00000030#32 ∧
  ∀ s : State, ∃ t, exec .treeBuild s = .next { s.completed with tree := some t } ∧
    Greedy 0 (initialEntries s.freq) t ∧ ∀ u, Greedy 0 (initialEntries s.freq) u → u = t

/-! ## Canonicalizer (44_canonical.md) -/

/-- R141: `LEN_FROM_TREE` writes each leaf's depth, and 0 exactly for the symbols of no leaf, or raises `NO_TREE`, or
`LENGTH_OVERFLOW` with the smallest symbol deeper than 255. -/
def Obligations.LenFromTreeWritesDepths : Prop :=
  encode .lenFromTree = 0x00000040#32 ∧
  ∀ s : State,
    (s.tree = none → exec .lenFromTree s = .next (s.failed .noTree 0#32)) ∧
    ∀ t, s.tree = some t → t.Ok →
      ((∀ p ∈ t.depths 0, p.2 ≤ 255) →
        ∃ len, exec .lenFromTree s = .next { s.completed with len := len } ∧
          (∀ p ∈ t.depths 0, (entry len p.1).toNat = p.2) ∧ ∀ a, entry len a = 0x00#8 ↔ a ∉ t.labels) ∧
      ∀ p ∈ t.depths 0, 255 < p.2 → (∀ q ∈ t.depths 0, 255 < q.2 → p.1 ≤ q.1) →
        exec .lenFromTree s = .next (s.failed .lengthOverflow (BitVec.ofNat 32 p.1.val))

/-- R143, R146: `TREE_FROM_LEN` stores the reconstruction exactly when the lengths meet the Kraft equality, and raises
`NON_CANONICAL` otherwise; the depths of a full tree always meet it. -/
def Obligations.TreeFromLenSucceedsExactlyOnKraft : Prop :=
  encode .treeFromLen = 0x00000041#32 ∧
  ∀ s : State,
    (kraftSum s.len = 1 →
      ∃ t, recon s.len = some t ∧ exec .treeFromLen s = .next { s.completed with tree := some t }) ∧
    (kraftSum s.len ≠ 1 → exec .treeFromLen s = .next (s.failed .nonCanonical 0#32)) ∧
    ∀ t : CodeTree, t.Ok → (∀ p ∈ t.depths 0, (entry s.len p.1).toNat = p.2) →
      (∀ a, a ∉ t.labels → entry s.len a = 0x00#8) → kraftSum s.len = 1

/-- R145, with the leaf order of R142: in a reconstructed tree each present symbol labels exactly one leaf, at its length's
depth, and no other does; left to right the leaves go from deep to shallow, and by ascending symbol at one depth; so
`LEN_FROM_TREE` after it leaves `LEN` unchanged, and `TREE_FROM_LEN` after that gives the same tree. -/
def Obligations.ReconstructedDepthsAreTheLengths : Prop :=
  ∀ (len : LenTable) (t : CodeTree), recon len = some t →
    t.isNode = true ∧ t.labels.Nodup ∧
    (∀ a d, (a, d) ∈ t.depths 0 ↔ 0 < d ∧ (entry len a).toNat = d) ∧
    (t.depths 0).Pairwise (fun p q => q.2 < p.2 ∨ (p.2 = q.2 ∧ p.1 < q.1)) ∧
    ∀ s : State, s.len = len → s.tree = some t →
      exec .lenFromTree s = .next s.completed ∧ exec .treeFromLen s = .next s.completed

/-- R147, R148, R149, R150: reading, writing, clearing and emitting the length table. -/
def Obligations.LengthTableCommands : Prop :=
  (∀ (a : BitVec 9) (v : Byte), encode (.lenGet a) = a.setWidth 32 <<< 8 ||| 0x42#32 ∧
    encode (.lenSet a v) = v.setWidth 32 <<< 17 ||| a.setWidth 32 <<< 8 ||| 0x43#32) ∧
  encode .lenClr = 0x00000044#32 ∧ encode .lenEmit = 0x00000045#32 ∧
  ∀ s : State,
    (∃ len, exec .lenClr s = .next { s.completed with len := len } ∧ ∀ x, entry len x = 0x00#8) ∧
    (∃ bytes : List Byte, exec .lenEmit s = .next { s.completed with out := s.out ++ bytes } ∧ bytes.length = 257 ∧
      ∀ x : Symbol, bytes[x.val]? = some (entry s.len x)) ∧
    ∀ (a : BitVec 9) (v : Byte),
      (256 < a.toNat →
        exec (.lenGet a) s = .next (s.failed .symbolRange (a.setWidth 32)) ∧
        exec (.lenSet a v) s = .next (s.failed .symbolRange (a.setWidth 32))) ∧
      ∀ x : Symbol, x.val = a.toNat →
        exec (.lenGet a) s = .next { s.completed with result := (entry s.len x).setWidth 32 } ∧
        ∃ len, exec (.lenSet a v) s = .next { s.completed with len := len } ∧ entry len x = v ∧
          ∀ y, y ≠ x → entry len y = entry s.len y

/-- R151: `LEN_LOAD` takes 257 bytes as the lengths in ascending symbol order; a stream that ends first raises
`TRUNCATED` with the number consumed, and leaves `LEN`; one that has not ended makes it hold. -/
def Obligations.LenLoadReadsTheTable : Prop :=
  encode .lenLoad = 0x00000046#32 ∧
  ∀ s : State,
    (∀ bytes rest, bytes.length = 257 → s.inq = bytes ++ rest →
      ∃ len, exec .lenLoad s = .next { s.completed with inq := rest, len := len } ∧
        ∀ x : Symbol, bytes[x.val]? = some (entry len x)) ∧
    (s.inq.length < 257 → s.eos = true →
      exec .lenLoad s = .next { s.failed .truncated (BitVec.ofNat 32 s.inq.length) with endf := true, inq := [] }) ∧
    (s.inq.length < 257 → s.eos = false → exec .lenLoad s = .next s.held)

/-! ## Code table and encoder (45_encoder.md) -/

/-- R160, R161: `CODE_GEN` gives each leaf's symbol its path and no other symbol a code, at least one bit each, and no
code a prefix of another; or raises `NO_TREE`, or `LENGTH_OVERFLOW` with the smallest symbol whose code is too long. -/
def Obligations.CodeGenGivesThePaths : Prop :=
  encode .codeGen = 0x00000050#32 ∧
  ∀ s : State,
    (s.tree = none → exec .codeGen s = .next (s.failed .noTree 0#32)) ∧
    ∀ t, s.tree = some t → t.Ok →
      ((∀ p ∈ t.paths [], p.2.length ≤ 255) →
        ∃ c, exec .codeGen s = .next { s.completed with code := some c } ∧
          (∀ p ∈ t.paths [], entry c p.1 = some p.2) ∧ (∀ a, a ∉ t.labels → entry c a = none) ∧
          (∀ a x, entry c a = some x → 1 ≤ x.length) ∧
          ∀ a b x y, a ≠ b → entry c a = some x → entry c b = some y → ¬ x <+: y) ∧
      ∀ p ∈ t.paths [], 255 < p.2.length → (∀ q ∈ t.paths [], 255 < q.2.length → p.1 ≤ q.1) →
        exec .codeGen s = .next (s.failed .lengthOverflow (BitVec.ofNat 32 p.1.val))

/-- R162, R163: the length and the bits of a code, with the errors of each in order. -/
def Obligations.CodeInspectionCommands : Prop :=
  (∀ (a : BitVec 9) (v : Byte), encode (.codeLen a) = a.setWidth 32 <<< 8 ||| 0x51#32 ∧
    encode (.codeBit a v) = v.setWidth 32 <<< 17 ||| a.setWidth 32 <<< 8 ||| 0x52#32) ∧
  ∀ (s : State) (a : BitVec 9) (v : Byte),
    (256 < a.toNat →
      exec (.codeLen a) s = .next (s.failed .symbolRange (a.setWidth 32)) ∧
      exec (.codeBit a v) s = .next (s.failed .symbolRange (a.setWidth 32))) ∧
    (a.toNat ≤ 256 → s.code = none →
      exec (.codeLen a) s = .next (s.failed .noCode (a.setWidth 32)) ∧
      exec (.codeBit a v) s = .next (s.failed .noCode (a.setWidth 32))) ∧
    ∀ (c : CodeTable) (x : Symbol), s.code = some c → x.val = a.toNat →
      (entry c x = none →
        exec (.codeLen a) s = .next { s.completed with result := 0#32 } ∧
        exec (.codeBit a v) s = .next (s.failed .noCode (a.setWidth 32))) ∧
      ∀ bits, entry c x = some bits →
        exec (.codeLen a) s = .next { s.completed with result := BitVec.ofNat 32 bits.length } ∧
        (bits.length ≤ v.toNat → exec (.codeBit a v) s = .next (s.failed .indexRange (v.setWidth 32))) ∧
        ∀ b, bits[v.toNat]? = some b →
          exec (.codeBit a v) s = .next { s.completed with result := if b = true then 1#32 else 0#32 }

/-- R165, R166 with R164: encoding a symbol appends its code to the bits written; `ENC_END` appends the sentinel's and
fills up the byte with zeros. A symbol with no code raises `NO_CODE`, and nothing is written. -/
def Obligations.EncoderCommands : Prop :=
  (∀ a : BitVec 9, encode (.encSym a) = a.setWidth 32 <<< 8 ||| 0x53#32) ∧ encode .encEnd = 0x00000054#32 ∧
  ∀ s : State,
    (∀ a : BitVec 9, 256 < a.toNat → exec (.encSym a) s = .next (s.failed .symbolRange (a.setWidth 32))) ∧
    (∀ a : BitVec 9, a.toNat ≤ 256 → s.code = none → exec (.encSym a) s = .next (s.failed .noCode (a.setWidth 32))) ∧
    (s.code = none → exec .encEnd s = .next (s.failed .noCode 256#32)) ∧
    ∀ c : CodeTable, s.code = some c →
      (∀ (a : BitVec 9) (x : Symbol), x.val = a.toNat → entry c x = none →
        exec (.encSym a) s = .next (s.failed .noCode (a.setWidth 32))) ∧
      (entry c sentinel = none → exec .encEnd s = .next (s.failed .noCode 256#32)) ∧
      (s.bw.length ≤ 7 →
        (∀ (a : BitVec 9) (x : Symbol) (bits : Bits), x.val = a.toNat → entry c x = some bits →
          ∃ bytes bw, exec (.encSym a) s = .next { s.completed with out := s.out ++ bytes, bw := bw } ∧
            bw.length ≤ 7 ∧ bitsOfBytes bytes ++ bw = s.bw ++ bits) ∧
        ∀ bits, entry c sentinel = some bits →
          ∃ bytes, exec .encEnd s = .next { s.completed with out := s.out ++ bytes, bw := [] } ∧
            bitsOfBytes bytes = s.bw ++ bits ++ List.replicate (padCount (s.bw.length + bits.length)) false)

/-- R168: the encoding pass of a file writes exactly its payload, which is `ceil(|B| / 8)` bytes, never empty, and holds
the codes of the bytes, the sentinel's code and zeros. -/
def Obligations.EncodingPassWritesThePayload : Prop :=
  ∀ (s : State) (c : CodeTable) (d : List Byte), s.code = some c → CodeTable.Ok c → s.bw = [] →
    (∀ b ∈ d, (entry c (byteSymbol b)).isSome = true) → (entry c sentinel).isSome = true →
    runClean (encodingPass d) s = some { s.completed with out := s.out ++ payload c d } ∧
    (payload c d).length = ((payloadBits c d).length + 7) / 8 ∧ payload c d ≠ [] ∧
    bitsOfBytes (payload c d) = payloadBits c d ++ List.replicate (padCount (payloadBits c d).length) false

/-! ## Decoder (46_decoder.md) -/

/-- R181: `DEC_SYM` takes the bits of one path and gives its symbol; when IN ends before a leaf, or the reader is
closed, it raises `TRUNCATED(0x200)`; with no tree, `NO_TREE`; when IN has not ended it holds. The reader then holds the
last byte taken, or the byte it held when none was (R101). -/
def Obligations.DecSymWalksTheTree : Prop :=
  encode .decSym = 0x00000060#32 ∧
  ∀ s : State,
    (s.tree = none → exec .decSym s = .next (s.failed .noTree 0#32)) ∧
    ∀ t, s.tree = some t → t.isNode = true →
      (s.br.closed = true →
        exec .decSym s = .next { s.failed .truncated 0x200#32 with endf := true }) ∧
      (s.br.closed = false → s.br.rem ≤ 8 →
        (∀ a p rest, (a, p) ∈ t.paths [] → s.bitsAhead = p ++ rest →
          ∃ taken q r, exec .decSym s = .next { s.completed with
              result := BitVec.ofNat 32 a.val, sent := decide (a = sentinel), inq := q, br := r } ∧
            s.inq = taken ++ q ∧ r.buf = taken.getLast?.getD s.br.buf ∧
            r.closed = false ∧ r.rem ≤ 7 ∧ r.pending ++ bitsOfBytes q = rest) ∧
        ((∀ a p, (a, p) ∈ t.paths [] → ¬ p <+: s.bitsAhead) →
          (s.eos = true →
            exec .decSym s = .next { s.failed .truncated 0x200#32 with
              endf := true, inq := [], br := ⟨s.inq.getLast?.getD s.br.buf, 0, false⟩ }) ∧
          (s.eos = false → exec .decSym s = .next s.held)))

/-- R184, R185: from a fresh reader on `Payload(C, d)` followed by any bytes `r`, the decode loop gives the bytes of the
file and then 256; the reader has then taken the payload's bytes and none of `r`, holds the padding bits, and closing
it leaves IN at the first byte of `r`. The bound on the loop's turns is the model's choice (log entry 19). -/
def Obligations.DecodeLoopInvertsThePayload : Prop :=
  ∀ (s : State) (len : LenTable) (t : CodeTree) (d r : List Byte), recon len = some t →
    (∀ b ∈ d, byteSymbol b ∈ t.labels) → sentinel ∈ t.labels →
    s.tree = some t → s.br = ⟨0x00#8, 0, false⟩ → s.inq = payload (codesOf t) d ++ r →
    ∃ u, decodeLoop (d.length + 1) s = some (d, u) ∧ u.result = 256#32 ∧ u.inq = r ∧
      u.br.rem = padCount (payloadBits (codesOf t) d).length ∧
      ∃ v, exec .brClose u = .next v ∧ v.inq = r ∧ v.br = ⟨0x00#8, 0, true⟩

/-! ## Archive writer (47_archive_write.md) -/

/-- R193, R196, R197, R198, R210: the writer's fixed fields and their phase moves. -/
def Obligations.WriterFixedFields : Prop :=
  encode .awBegin = 0x00000070#32 ∧ encode .awMend = 0x00000073#32 ∧ encode .awDir = 0x00000074#32 ∧
  encode .awFile = 0x00000075#32 ∧ encode .awEnd = 0x0000007A#32 ∧
  ∀ s : State,
    (s.fph = .idle → exec .awBegin s = .next { s.completed with
      out := s.out ++ [s.cfg.magic0, s.cfg.magic1], fph := .wManifest }) ∧
    (s.fph = .wManifest → exec .awMend s = .next { s.completed with out := s.out ++ [s.cfg.mend], fph := .wBlocks }) ∧
    (s.fph = .wBlocks →
      exec .awDir s = .next { s.completed with out := s.out ++ [s.cfg.tagDir], fph := .wDpath } ∧
      (∃ f, exec .awFile s = .next { s.completed with out := s.out ++ [s.cfg.tagFile], freq := f, fph := .wFpath } ∧
        ∀ x, entry f x = 0) ∧
      exec .awEnd s = .next { s.completed with fph := .idle }) ∧
    (s.fph ≠ .idle → exec .awBegin s = .next (s.failed .sequence (s.fph.code.setWidth 32))) ∧
    (s.fph ≠ .wManifest → exec .awMend s = .next (s.failed .sequence (s.fph.code.setWidth 32))) ∧
    (s.fph ≠ .wBlocks →
      exec .awDir s = .next (s.failed .sequence (s.fph.code.setWidth 32)) ∧
      exec .awFile s = .next (s.failed .sequence (s.fph.code.setWidth 32)) ∧
      exec .awEnd s = .next (s.failed .sequence (s.fph.code.setWidth 32)))

/-- R194, R195, R203: path bytes and path ends; NUL and `MEND` raise `BAD_PATH_BYTE` and nothing is written. -/
def Obligations.WriterPaths : Prop :=
  (∀ b : Byte, encode (.awPbyte b) = b.setWidth 32 <<< 8 ||| 0x71#32) ∧ encode .awPend = 0x00000072#32 ∧
  ∀ s : State,
    (s.fph ∈ [Phase.wManifest, .wMpath, .wDpath, .wFpath] →
      ∀ b : Byte,
        (b = 0x00#8 ∨ b = s.cfg.mend → exec (.awPbyte b) s = .next (s.failed .badPathByte (b.setWidth 32))) ∧
        (b ≠ 0x00#8 → b ≠ s.cfg.mend → exec (.awPbyte b) s = .next { s.completed with
          out := s.out ++ [b], fph := if s.fph = .wManifest then .wMpath else s.fph })) ∧
    (s.fph = .wManifest ∨ s.fph = .wMpath →
      exec .awPend s = .next { s.completed with out := s.out ++ [0x00#8], fph := .wManifest }) ∧
    (s.fph = .wDpath → exec .awPend s = .next { s.completed with out := s.out ++ [0x00#8], fph := .wBlocks }) ∧
    (s.fph = .wFpath → exec .awPend s = .next { s.completed with out := s.out ++ [0x00#8], fph := .wFcount }) ∧
    (s.fph ∉ [Phase.wManifest, .wMpath, .wDpath, .wFpath] →
      exec .awPend s = .next (s.failed .sequence (s.fph.code.setWidth 32)) ∧
      ∀ b : Byte, exec (.awPbyte b) s = .next (s.failed .sequence (s.fph.code.setWidth 32)))

/-- R199: `AW_COUNT` counts a byte in `W_FCOUNT`; a counter at `CNT_MAX` is a fatal `COUNTER_OVERFLOW`. -/
def Obligations.WriterCounts : Prop :=
  (∀ b : Byte, encode (.awCount b) = b.setWidth 32 <<< 8 ||| 0x76#32) ∧
  ∀ (s : State) (b : Byte) (x : Symbol), x.val = b.toNat →
    (s.fph ≠ .wFcount → exec (.awCount b) s = .next (s.failed .sequence (s.fph.code.setWidth 32))) ∧
    (s.fph = .wFcount → entry s.freq x = s.cfg.cntMax →
      exec (.awCount b) s = .next { s.failed .counterOverflow (b.setWidth 32) with fph := .fatal }) ∧
    (s.fph = .wFcount → entry s.freq x ≠ s.cfg.cntMax →
      ∃ f, exec (.awCount b) s = .next { s.completed with freq := f } ∧ entry f x = entry s.freq x + 1 ∧
        ∀ y, y ≠ x → entry f y = entry s.freq y)

/-- R200, R167: `AW_FILEHDR` counts the sentinel, takes the depths of the greedy tree as the lengths, rebuilds the tree
from them, which never fails (R146), derives the codes of the rebuilt tree, writes the 257 lengths and empties the
BitWriter; the two overflows are fatal and write nothing. -/
def Obligations.FileHeaderBuildsTheCanonicalCode : Prop :=
  encode .awFilehdr = 0x00000077#32 ∧
  ∀ s : State,
    (s.fph ≠ .wFcount → exec .awFilehdr s = .next (s.failed .sequence (s.fph.code.setWidth 32))) ∧
    (s.fph = .wFcount → entry s.freq sentinel = s.cfg.cntMax →
      exec .awFilehdr s = .next { s.failed .counterOverflow 256#32 with fph := .fatal }) ∧
    (s.fph = .wFcount → entry s.freq sentinel ≠ s.cfg.cntMax →
      ∃ f t0, entry f sentinel = entry s.freq sentinel + 1 ∧ (∀ y, y ≠ sentinel → entry f y = entry s.freq y) ∧
        buildTree f = some t0 ∧
        ((∀ p ∈ t0.depths 0, p.2 ≤ 255) →
          ∃ len t c, (∀ p ∈ t0.depths 0, (entry len p.1).toNat = p.2) ∧
            (∀ a, a ∉ t0.labels → entry len a = 0x00#8) ∧ recon len = some t ∧
            (∀ p ∈ t.paths [], entry c p.1 = some p.2) ∧ (∀ a, a ∉ t.labels → entry c a = none) ∧
            exec .awFilehdr s = .next { s.completed with
              freq := f, len := len, tree := some t, code := some c, bw := [],
              out := s.out ++ len.toList, fph := .wPayload }) ∧
        ∀ p ∈ t0.depths 0, 255 < p.2 → (∀ q ∈ t0.depths 0, 255 < q.2 → p.1 ≤ q.1) →
          exec .awFilehdr s = .next { s.failed .lengthOverflow (BitVec.ofNat 32 p.1.val) with fph := .fatal })

/-- R201, R202: in `W_PAYLOAD` a byte's code is appended to the bits written, and the end of the file appends the
sentinel's code and fills up the byte; a symbol with no code is a fatal `NO_CODE` and writes nothing. That the byte 0x00
is encoded in the payload of an empty file, where R287 would have `NO_CODE`, is the model's choice (log entry 24). -/
def Obligations.WriterPayload : Prop :=
  (∀ b : Byte, encode (.awSym b) = b.setWidth 32 <<< 8 ||| 0x78#32) ∧ encode .awFend = 0x00000079#32 ∧
  ∀ s : State,
    (s.fph ≠ .wPayload → exec .awFend s = .next (s.failed .sequence (s.fph.code.setWidth 32)) ∧
      ∀ b, exec (.awSym b) s = .next (s.failed .sequence (s.fph.code.setWidth 32))) ∧
    (s.fph = .wPayload → ∀ c : CodeTable, s.code = some c →
      (∀ b, entry c (byteSymbol b) = none →
        exec (.awSym b) s = .next { s.failed .noCode (b.setWidth 32) with fph := .fatal }) ∧
      (entry c sentinel = none → exec .awFend s = .next { s.failed .noCode 256#32 with fph := .fatal }) ∧
      (s.bw.length ≤ 7 →
        (∀ b bits, entry c (byteSymbol b) = some bits →
          ∃ bytes bw, exec (.awSym b) s = .next { s.completed with out := s.out ++ bytes, bw := bw } ∧
            bw.length ≤ 7 ∧ bitsOfBytes bytes ++ bw = s.bw ++ bits) ∧
        ∀ bits, entry c sentinel = some bits →
          ∃ bytes, exec .awFend s = .next { s.completed with out := s.out ++ bytes, bw := [], fph := .wBlocks } ∧
            bitsOfBytes bytes = s.bw ++ bits ++ List.replicate (padCount (s.bw.length + bits.length)) false))

/-- R205, R190: the host's write run of a list of entries appends exactly their archive to OUT and ends in `IDLE`. That
they have an archive asks that no file's greedy tree is deeper than 255, which R135 has for every `CNT_W` up to 32 and
this statement does not claim. -/
def Obligations.WriteRunWritesTheArchive : Prop :=
  ∀ (s : State) (es : List ArchiveEntry) (bytes : List Byte), s.fph = .idle → s.cfg.Valid →
    (∀ e ∈ es, pathAllowed s.cfg e.path) →
    (∀ e ∈ es, ∀ d, e.content = some d → ∀ b, d.count b ≤ s.cfg.cntMax) →
    archiveOf s.cfg es = some bytes →
    ∃ t, runClean (writeRun es) s = some t ∧ t.out = s.out ++ bytes ∧ t.fph = .idle

/-- R191: the loop with its stack lists the source tree as a node and then its children, last first, each with all below
it; every node is listed once, the root first. Paths are those of the reference configuration (R192, log entry 22). -/
def Obligations.DfsOrderIsReversedPreorder : Prop :=
  ∀ root : FsNode, dfsOrder root = reversePreorder root.name root ∧ (dfsOrder root).length = root.size ∧
    ∀ fuel, root.size ≤ fuel → dfsLoop fuel [(root.name, root)] = dfsOrder root

/-! ## Archive reader (48_archive_read.md) -/

/-- R222: the two magic bytes are read and then compared; a mismatch or a short stream is a fatal `BAD_MAGIC`. -/
def Obligations.ReaderChecksTheMagic : Prop :=
  encode .arMagic = 0x00000080#32 ∧
  ∀ s : State,
    (s.fph ≠ .idle → exec .arMagic s = .next (s.failed .sequence (s.fph.code.setWidth 32))) ∧
    (s.fph = .idle →
      (∀ rest, s.inq = s.cfg.magic0 :: s.cfg.magic1 :: rest →
        exec .arMagic s = .next { s.completed with inq := rest, fph := .rManifest }) ∧
      (∀ c0 c1 rest, s.inq = c0 :: c1 :: rest → c0 ≠ s.cfg.magic0 ∨ c1 ≠ s.cfg.magic1 →
        exec .arMagic s = .next { s.failed .badMagic (BitVec.ofNat 32 (256 * c1.toNat + c0.toNat)) with
          inq := rest, fph := .fatal }) ∧
      (s.inq.length < 2 → s.eos = true →
        exec .arMagic s = .next { s.failed .badMagic 0x200#32 with endf := true, inq := [], fph := .fatal }) ∧
      (s.inq.length < 2 → s.eos = false → exec .arMagic s = .next s.held))

/-- R223, R224: reading the manifest byte by byte, and skipping it up to its first `MEND`; its truncation is fatal. -/
def Obligations.ReaderManifest : Prop :=
  encode .arMbyte = 0x00000081#32 ∧ encode .arSkipm = 0x00000082#32 ∧
  ∀ s : State,
    (s.fph ≠ .rManifest → exec .arMbyte s = .next (s.failed .sequence (s.fph.code.setWidth 32)) ∧
      exec .arSkipm s = .next (s.failed .sequence (s.fph.code.setWidth 32))) ∧
    (s.fph = .rManifest →
      (∀ c rest, s.inq = c :: rest →
        (c = s.cfg.mend → exec .arMbyte s = .next { s.completed with result := 0x101#32, inq := rest, fph := .rEntry }) ∧
        (c ≠ s.cfg.mend → c = 0x00#8 → exec .arMbyte s = .next { s.completed with result := 0x100#32, inq := rest }) ∧
        (c ≠ s.cfg.mend → c ≠ 0x00#8 →
          exec .arMbyte s = .next { s.completed with result := c.setWidth 32, inq := rest })) ∧
      (∀ pre rest, s.inq = pre ++ s.cfg.mend :: rest → s.cfg.mend ∉ pre →
        exec .arSkipm s = .next { s.completed with result := 0#32, inq := rest, fph := .rEntry }) ∧
      (s.inq = [] → s.eos = true → exec .arMbyte s = .next
        { s.failed .truncated 0x200#32 with endf := true, fph := .fatal }) ∧
      (s.inq = [] → s.eos = false → exec .arMbyte s = .next s.held) ∧
      (s.cfg.mend ∉ s.inq → s.eos = true → exec .arSkipm s = .next
        { s.failed .truncated 0x200#32 with endf := true, inq := [], fph := .fatal }) ∧
      (s.cfg.mend ∉ s.inq → s.eos = false → exec .arSkipm s = .next s.held))

/-- R225, R226: the tag or the end of the archive, and the bytes of an entry's path. -/
def Obligations.ReaderEntriesAndPaths : Prop :=
  encode .arEntry = 0x00000083#32 ∧ encode .arPbyte = 0x00000084#32 ∧
  ∀ s : State,
    (s.fph ≠ .rEntry → exec .arEntry s = .next (s.failed .sequence (s.fph.code.setWidth 32))) ∧
    (s.fph = .rEntry →
      (∀ c rest, s.inq = c :: rest →
        (c = s.cfg.tagDir → exec .arEntry s = .next { s.completed with result := 1#32, inq := rest, fph := .rDpath }) ∧
        (c ≠ s.cfg.tagDir → c = s.cfg.tagFile →
          exec .arEntry s = .next { s.completed with result := 2#32, inq := rest, fph := .rFpath }) ∧
        (c ≠ s.cfg.tagDir → c ≠ s.cfg.tagFile →
          exec .arEntry s = .next { s.failed .badTag (c.setWidth 32) with inq := rest, fph := .fatal })) ∧
      (s.inq = [] → s.eos = true →
        exec .arEntry s = .next { s.completed with endf := true, result := 0#32, fph := .rDone }) ∧
      (s.inq = [] → s.eos = false → exec .arEntry s = .next s.held)) ∧
    (s.fph ≠ .rDpath → s.fph ≠ .rFpath →
      exec .arPbyte s = .next (s.failed .sequence (s.fph.code.setWidth 32))) ∧
    (s.fph = .rDpath ∨ s.fph = .rFpath →
      (∀ c rest, s.inq = c :: rest →
        (c ≠ 0x00#8 → exec .arPbyte s = .next { s.completed with result := c.setWidth 32, inq := rest }) ∧
        (c = 0x00#8 → exec .arPbyte s = .next { s.completed with
          result := 0x100#32, inq := rest, fph := if s.fph = .rDpath then .rEntry else .rLens })) ∧
      (s.inq = [] → s.eos = true → exec .arPbyte s = .next
        { s.failed .truncated 0x200#32 with endf := true, fph := .fatal }) ∧
      (s.inq = [] → s.eos = false → exec .arPbyte s = .next s.held))

/-- R228: `AR_FILEHDR` reads a length table and rebuilds its tree; a short table ends the entry, a table that breaks the
Kraft equality ends the run. -/
def Obligations.ReaderFileHeader : Prop :=
  encode .arFilehdr = 0x00000085#32 ∧
  ∀ s : State,
    (s.fph ≠ .rLens → exec .arFilehdr s = .next (s.failed .sequence (s.fph.code.setWidth 32))) ∧
    (s.fph = .rLens →
      (∀ (len : LenTable) (rest : List Byte), s.inq = len.toList ++ rest →
        (kraftSum len = 1 → ∃ t, recon len = some t ∧ exec .arFilehdr s = .next { s.completed with
          inq := rest, len := len, tree := some t, br := ⟨0x00#8, 0, false⟩, fph := .rPayload }) ∧
        (kraftSum len ≠ 1 →
          exec .arFilehdr s = .next { s.failed .nonCanonical 0#32 with inq := rest, fph := .fatal })) ∧
      (s.inq.length < 257 → s.eos = true → exec .arFilehdr s = .next
        { s.failed .truncated (BitVec.ofNat 32 s.inq.length) with endf := true, inq := [], fph := .rEntry }) ∧
      (s.inq.length < 257 → s.eos = false → exec .arFilehdr s = .next s.held))

/-- R229: `AR_SYM` decodes one symbol of the payload; the sentinel closes the reader and ends the entry; when the bits
end before a leaf, `TRUNCATED(0x200)` ends the entry. An open reader holds the last byte taken, or the byte it held when
none was (R101). -/
def Obligations.ReaderDecodesThePayload : Prop :=
  encode .arSym = 0x00000086#32 ∧
  ∀ s : State,
    (s.fph ≠ .rPayload → exec .arSym s = .next (s.failed .sequence (s.fph.code.setWidth 32))) ∧
    ∀ t, s.fph = .rPayload → s.tree = some t → t.isNode = true →
      (s.br.closed = true → exec .arSym s = .next
        { s.failed .truncated 0x200#32 with endf := true, br := ⟨0x00#8, 0, true⟩, fph := .rEntry }) ∧
      (s.br.closed = false → s.br.rem ≤ 8 →
        (∀ a p rest, (a, p) ∈ t.paths [] → s.bitsAhead = p ++ rest →
          (a ≠ sentinel → ∃ taken q r, exec .arSym s = .next { s.completed with
              result := BitVec.ofNat 32 a.val, inq := q, br := r } ∧
            s.inq = taken ++ q ∧ r.buf = taken.getLast?.getD s.br.buf ∧ r.closed = false ∧ r.rem ≤ 7 ∧ r.pending ++ bitsOfBytes q = rest) ∧
          (a = sentinel → ∃ q, exec .arSym s = .next { s.completed with
              result := 256#32, sent := true, inq := q, br := ⟨0x00#8, 0, true⟩, fph := .rEntry } ∧
            ∃ padding, padding.length ≤ 7 ∧ padding ++ bitsOfBytes q = rest)) ∧
        ((∀ a p, (a, p) ∈ t.paths [] → ¬ p <+: s.bitsAhead) →
          (s.eos = true → exec .arSym s = .next { s.failed .truncated 0x200#32 with
            endf := true, inq := [], br := ⟨0x00#8, 0, true⟩, fph := .rEntry }) ∧
          (s.eos = false → exec .arSym s = .next s.held)))

/-- R231, R232: `AR_END` closes the reader, restarts IN and returns to `IDLE`; `FR_ABORT` does so from every phase and
empties the BitWriter too. -/
def Obligations.RunsEndAndAbort : Prop :=
  encode .arEnd = 0x00000087#32 ∧ encode .frAbort = 0x0000008F#32 ∧
  ∀ s : State,
    (s.fph = .rEntry ∨ s.fph = .rDone → exec .arEnd s = .next { s.completed with
      br := ⟨0x00#8, 0, true⟩, inq := [], eos := false, fph := .idle }) ∧
    (s.fph ≠ .rEntry → s.fph ≠ .rDone → exec .arEnd s = .next (s.failed .sequence (s.fph.code.setWidth 32))) ∧
    exec .frAbort s = .next { s.completed with
      bw := [], br := ⟨0x00#8, 0, true⟩, inq := [], eos := false, fph := .idle }

/-- R234 with R190: extraction of an archive the block itself could write hands the host every entry in order, with its
path and its bytes, and ends in `IDLE`, however long the bound on the turns is beyond some length (the bound is the
model's choice, log entry 19). -/
def Obligations.ExtractionReproducesTheArchive : Prop :=
  ∀ (s : State) (es : List ArchiveEntry) (bytes : List Byte), s.fph = .idle → s.cfg.Valid →
    (∀ e ∈ es, pathAllowed s.cfg e.path) → archiveOf s.cfg es = some bytes → s.inq = bytes → s.eos = true →
    ∃ turns, ∀ fuel, turns ≤ fuel → ∃ t, extract fuel s = .finished (es.map extractedOf) t ∧ t.fph = .idle

/-- R233: preview hands the host the paths of the manifest in order, never touching the blocks (the bound on the turns is
the model's choice, log entry 19). -/
def Obligations.PreviewListsThePaths : Prop :=
  ∀ (s : State) (es : List ArchiveEntry) (rest : List Byte), s.fph = .idle → s.cfg.Valid →
    (∀ e ∈ es, pathAllowed s.cfg e.path) →
    s.inq = [s.cfg.magic0, s.cfg.magic1] ++ manifestOf es ++ [s.cfg.mend] ++ rest →
    ∃ turns, ∀ fuel, turns ≤ fuel → ∃ t, preview fuel s = .finished (es.map ArchiveEntry.path) t ∧ t.fph = .idle
end

