-- ==== Sys2Proof/Laws/State.lean ====
section
/-! SUPPORT. What each field of State is after each named update: one lemma per field per update, true by rfl. -/

namespace Sys2Proof.Machine

/-! ## `accept` -/

@[simp] theorem State.accept_cfg (s : State) : (s.accept).cfg = s.cfg := rfl
@[simp] theorem State.accept_cmdq (s : State) : (s.accept).cmdq = s.cmdq := rfl
@[simp] theorem State.accept_busy (s : State) : (s.accept).busy = true := rfl
@[simp] theorem State.accept_err (s : State) : (s.accept).err = false := rfl
@[simp] theorem State.accept_endf (s : State) : (s.accept).endf = false := rfl
@[simp] theorem State.accept_sent (s : State) : (s.accept).sent = false := rfl
@[simp] theorem State.accept_result (s : State) : (s.accept).result = s.result := rfl
@[simp] theorem State.accept_errcode (s : State) : (s.accept).errcode = .noError := rfl
@[simp] theorem State.accept_freq (s : State) : (s.accept).freq = s.freq := rfl
@[simp] theorem State.accept_tree (s : State) : (s.accept).tree = s.tree := rfl
@[simp] theorem State.accept_len (s : State) : (s.accept).len = s.len := rfl
@[simp] theorem State.accept_code (s : State) : (s.accept).code = s.code := rfl
@[simp] theorem State.accept_bw (s : State) : (s.accept).bw = s.bw := rfl
@[simp] theorem State.accept_br (s : State) : (s.accept).br = s.br := rfl
@[simp] theorem State.accept_fph (s : State) : (s.accept).fph = s.fph := rfl
@[simp] theorem State.accept_inq (s : State) : (s.accept).inq = s.inq := rfl
@[simp] theorem State.accept_eos (s : State) : (s.accept).eos = s.eos := rfl
@[simp] theorem State.accept_out (s : State) : (s.accept).out = s.out := rfl
@[simp] theorem State.accept_schedule (s : State) : (s.accept).schedule = s.schedule := rfl
@[simp] theorem State.accept_reads (s : State) : (s.accept).reads = s.reads := rfl
@[simp] theorem State.accept_received (s : State) : (s.accept).received = s.received := rfl

/-! ## `complete` -/

@[simp] theorem State.complete_cfg (s : State) : (s.complete).cfg = s.cfg := rfl
@[simp] theorem State.complete_cmdq (s : State) : (s.complete).cmdq = s.cmdq := rfl
@[simp] theorem State.complete_busy (s : State) : (s.complete).busy = false := rfl
@[simp] theorem State.complete_err (s : State) : (s.complete).err = s.err := rfl
@[simp] theorem State.complete_endf (s : State) : (s.complete).endf = s.endf := rfl
@[simp] theorem State.complete_sent (s : State) : (s.complete).sent = s.sent := rfl
@[simp] theorem State.complete_result (s : State) : (s.complete).result = s.result := rfl
@[simp] theorem State.complete_errcode (s : State) : (s.complete).errcode = s.errcode := rfl
@[simp] theorem State.complete_freq (s : State) : (s.complete).freq = s.freq := rfl
@[simp] theorem State.complete_tree (s : State) : (s.complete).tree = s.tree := rfl
@[simp] theorem State.complete_len (s : State) : (s.complete).len = s.len := rfl
@[simp] theorem State.complete_code (s : State) : (s.complete).code = s.code := rfl
@[simp] theorem State.complete_bw (s : State) : (s.complete).bw = s.bw := rfl
@[simp] theorem State.complete_br (s : State) : (s.complete).br = s.br := rfl
@[simp] theorem State.complete_fph (s : State) : (s.complete).fph = s.fph := rfl
@[simp] theorem State.complete_inq (s : State) : (s.complete).inq = s.inq := rfl
@[simp] theorem State.complete_eos (s : State) : (s.complete).eos = s.eos := rfl
@[simp] theorem State.complete_out (s : State) : (s.complete).out = s.out := rfl
@[simp] theorem State.complete_schedule (s : State) : (s.complete).schedule = s.schedule := rfl
@[simp] theorem State.complete_reads (s : State) : (s.complete).reads = s.reads := rfl
@[simp] theorem State.complete_received (s : State) : (s.complete).received = s.received := rfl

/-! ## `wait` -/

@[simp] theorem State.wait_cfg (s : State) : (s.wait).cfg = s.cfg := rfl
@[simp] theorem State.wait_cmdq (s : State) : (s.wait).cmdq = s.cmdq := rfl
@[simp] theorem State.wait_busy (s : State) : (s.wait).busy = true := rfl
@[simp] theorem State.wait_err (s : State) : (s.wait).err = s.err := rfl
@[simp] theorem State.wait_endf (s : State) : (s.wait).endf = s.endf := rfl
@[simp] theorem State.wait_sent (s : State) : (s.wait).sent = s.sent := rfl
@[simp] theorem State.wait_result (s : State) : (s.wait).result = s.result := rfl
@[simp] theorem State.wait_errcode (s : State) : (s.wait).errcode = s.errcode := rfl
@[simp] theorem State.wait_freq (s : State) : (s.wait).freq = s.freq := rfl
@[simp] theorem State.wait_tree (s : State) : (s.wait).tree = s.tree := rfl
@[simp] theorem State.wait_len (s : State) : (s.wait).len = s.len := rfl
@[simp] theorem State.wait_code (s : State) : (s.wait).code = s.code := rfl
@[simp] theorem State.wait_bw (s : State) : (s.wait).bw = s.bw := rfl
@[simp] theorem State.wait_br (s : State) : (s.wait).br = s.br := rfl
@[simp] theorem State.wait_fph (s : State) : (s.wait).fph = s.fph := rfl
@[simp] theorem State.wait_inq (s : State) : (s.wait).inq = s.inq := rfl
@[simp] theorem State.wait_eos (s : State) : (s.wait).eos = s.eos := rfl
@[simp] theorem State.wait_out (s : State) : (s.wait).out = s.out := rfl
@[simp] theorem State.wait_schedule (s : State) : (s.wait).schedule = s.schedule := rfl
@[simp] theorem State.wait_reads (s : State) : (s.wait).reads = s.reads := rfl
@[simp] theorem State.wait_received (s : State) : (s.wait).received = s.received := rfl

/-! ## `report` -/

@[simp] theorem State.report_cfg (s : State) (e : ErrCode) (info : Word) : (s.report e info).cfg = s.cfg := rfl
@[simp] theorem State.report_cmdq (s : State) (e : ErrCode) (info : Word) : (s.report e info).cmdq = s.cmdq := rfl
@[simp] theorem State.report_busy (s : State) (e : ErrCode) (info : Word) : (s.report e info).busy = s.busy := rfl
@[simp] theorem State.report_err (s : State) (e : ErrCode) (info : Word) : (s.report e info).err = true := rfl
@[simp] theorem State.report_endf (s : State) (e : ErrCode) (info : Word) : (s.report e info).endf = s.endf := rfl
@[simp] theorem State.report_sent (s : State) (e : ErrCode) (info : Word) : (s.report e info).sent = s.sent := rfl
@[simp] theorem State.report_result (s : State) (e : ErrCode) (info : Word) : (s.report e info).result = info := rfl
@[simp] theorem State.report_errcode (s : State) (e : ErrCode) (info : Word) : (s.report e info).errcode = e := rfl
@[simp] theorem State.report_freq (s : State) (e : ErrCode) (info : Word) : (s.report e info).freq = s.freq := rfl
@[simp] theorem State.report_tree (s : State) (e : ErrCode) (info : Word) : (s.report e info).tree = s.tree := rfl
@[simp] theorem State.report_len (s : State) (e : ErrCode) (info : Word) : (s.report e info).len = s.len := rfl
@[simp] theorem State.report_code (s : State) (e : ErrCode) (info : Word) : (s.report e info).code = s.code := rfl
@[simp] theorem State.report_bw (s : State) (e : ErrCode) (info : Word) : (s.report e info).bw = s.bw := rfl
@[simp] theorem State.report_br (s : State) (e : ErrCode) (info : Word) : (s.report e info).br = s.br := rfl
@[simp] theorem State.report_fph (s : State) (e : ErrCode) (info : Word) : (s.report e info).fph = s.fph := rfl
@[simp] theorem State.report_inq (s : State) (e : ErrCode) (info : Word) : (s.report e info).inq = s.inq := rfl
@[simp] theorem State.report_eos (s : State) (e : ErrCode) (info : Word) : (s.report e info).eos = s.eos := rfl
@[simp] theorem State.report_out (s : State) (e : ErrCode) (info : Word) : (s.report e info).out = s.out := rfl
@[simp] theorem State.report_schedule (s : State) (e : ErrCode) (info : Word) : (s.report e info).schedule = s.schedule := rfl
@[simp] theorem State.report_reads (s : State) (e : ErrCode) (info : Word) : (s.report e info).reads = s.reads := rfl
@[simp] theorem State.report_received (s : State) (e : ErrCode) (info : Word) : (s.report e info).received = s.received := rfl

/-! ## `setEnd` -/

@[simp] theorem State.setEnd_cfg (s : State) : (s.setEnd).cfg = s.cfg := rfl
@[simp] theorem State.setEnd_cmdq (s : State) : (s.setEnd).cmdq = s.cmdq := rfl
@[simp] theorem State.setEnd_busy (s : State) : (s.setEnd).busy = s.busy := rfl
@[simp] theorem State.setEnd_err (s : State) : (s.setEnd).err = s.err := rfl
@[simp] theorem State.setEnd_endf (s : State) : (s.setEnd).endf = true := rfl
@[simp] theorem State.setEnd_sent (s : State) : (s.setEnd).sent = s.sent := rfl
@[simp] theorem State.setEnd_result (s : State) : (s.setEnd).result = s.result := rfl
@[simp] theorem State.setEnd_errcode (s : State) : (s.setEnd).errcode = s.errcode := rfl
@[simp] theorem State.setEnd_freq (s : State) : (s.setEnd).freq = s.freq := rfl
@[simp] theorem State.setEnd_tree (s : State) : (s.setEnd).tree = s.tree := rfl
@[simp] theorem State.setEnd_len (s : State) : (s.setEnd).len = s.len := rfl
@[simp] theorem State.setEnd_code (s : State) : (s.setEnd).code = s.code := rfl
@[simp] theorem State.setEnd_bw (s : State) : (s.setEnd).bw = s.bw := rfl
@[simp] theorem State.setEnd_br (s : State) : (s.setEnd).br = s.br := rfl
@[simp] theorem State.setEnd_fph (s : State) : (s.setEnd).fph = s.fph := rfl
@[simp] theorem State.setEnd_inq (s : State) : (s.setEnd).inq = s.inq := rfl
@[simp] theorem State.setEnd_eos (s : State) : (s.setEnd).eos = s.eos := rfl
@[simp] theorem State.setEnd_out (s : State) : (s.setEnd).out = s.out := rfl
@[simp] theorem State.setEnd_schedule (s : State) : (s.setEnd).schedule = s.schedule := rfl
@[simp] theorem State.setEnd_reads (s : State) : (s.setEnd).reads = s.reads := rfl
@[simp] theorem State.setEnd_received (s : State) : (s.setEnd).received = s.received := rfl

/-! ## `withResult` -/

@[simp] theorem State.withResult_cfg (s : State) (v : Word) : (s.withResult v).cfg = s.cfg := rfl
@[simp] theorem State.withResult_cmdq (s : State) (v : Word) : (s.withResult v).cmdq = s.cmdq := rfl
@[simp] theorem State.withResult_busy (s : State) (v : Word) : (s.withResult v).busy = s.busy := rfl
@[simp] theorem State.withResult_err (s : State) (v : Word) : (s.withResult v).err = s.err := rfl
@[simp] theorem State.withResult_endf (s : State) (v : Word) : (s.withResult v).endf = s.endf := rfl
@[simp] theorem State.withResult_sent (s : State) (v : Word) : (s.withResult v).sent = s.sent := rfl
@[simp] theorem State.withResult_result (s : State) (v : Word) : (s.withResult v).result = v := rfl
@[simp] theorem State.withResult_errcode (s : State) (v : Word) : (s.withResult v).errcode = s.errcode := rfl
@[simp] theorem State.withResult_freq (s : State) (v : Word) : (s.withResult v).freq = s.freq := rfl
@[simp] theorem State.withResult_tree (s : State) (v : Word) : (s.withResult v).tree = s.tree := rfl
@[simp] theorem State.withResult_len (s : State) (v : Word) : (s.withResult v).len = s.len := rfl
@[simp] theorem State.withResult_code (s : State) (v : Word) : (s.withResult v).code = s.code := rfl
@[simp] theorem State.withResult_bw (s : State) (v : Word) : (s.withResult v).bw = s.bw := rfl
@[simp] theorem State.withResult_br (s : State) (v : Word) : (s.withResult v).br = s.br := rfl
@[simp] theorem State.withResult_fph (s : State) (v : Word) : (s.withResult v).fph = s.fph := rfl
@[simp] theorem State.withResult_inq (s : State) (v : Word) : (s.withResult v).inq = s.inq := rfl
@[simp] theorem State.withResult_eos (s : State) (v : Word) : (s.withResult v).eos = s.eos := rfl
@[simp] theorem State.withResult_out (s : State) (v : Word) : (s.withResult v).out = s.out := rfl
@[simp] theorem State.withResult_schedule (s : State) (v : Word) : (s.withResult v).schedule = s.schedule := rfl
@[simp] theorem State.withResult_reads (s : State) (v : Word) : (s.withResult v).reads = s.reads := rfl
@[simp] theorem State.withResult_received (s : State) (v : Word) : (s.withResult v).received = s.received := rfl

/-! ## `restartIn` -/

@[simp] theorem State.restartIn_cfg (s : State) : (s.restartIn).cfg = s.cfg := rfl
@[simp] theorem State.restartIn_cmdq (s : State) : (s.restartIn).cmdq = s.cmdq := rfl
@[simp] theorem State.restartIn_busy (s : State) : (s.restartIn).busy = s.busy := rfl
@[simp] theorem State.restartIn_err (s : State) : (s.restartIn).err = s.err := rfl
@[simp] theorem State.restartIn_endf (s : State) : (s.restartIn).endf = s.endf := rfl
@[simp] theorem State.restartIn_sent (s : State) : (s.restartIn).sent = s.sent := rfl
@[simp] theorem State.restartIn_result (s : State) : (s.restartIn).result = s.result := rfl
@[simp] theorem State.restartIn_errcode (s : State) : (s.restartIn).errcode = s.errcode := rfl
@[simp] theorem State.restartIn_freq (s : State) : (s.restartIn).freq = s.freq := rfl
@[simp] theorem State.restartIn_tree (s : State) : (s.restartIn).tree = s.tree := rfl
@[simp] theorem State.restartIn_len (s : State) : (s.restartIn).len = s.len := rfl
@[simp] theorem State.restartIn_code (s : State) : (s.restartIn).code = s.code := rfl
@[simp] theorem State.restartIn_bw (s : State) : (s.restartIn).bw = s.bw := rfl
@[simp] theorem State.restartIn_br (s : State) : (s.restartIn).br = s.br := rfl
@[simp] theorem State.restartIn_fph (s : State) : (s.restartIn).fph = s.fph := rfl
@[simp] theorem State.restartIn_inq (s : State) : (s.restartIn).inq = [] := rfl
@[simp] theorem State.restartIn_eos (s : State) : (s.restartIn).eos = false := rfl
@[simp] theorem State.restartIn_out (s : State) : (s.restartIn).out = s.out := rfl
@[simp] theorem State.restartIn_schedule (s : State) : (s.restartIn).schedule = s.schedule := rfl
@[simp] theorem State.restartIn_reads (s : State) : (s.restartIn).reads = s.reads := rfl
@[simp] theorem State.restartIn_received (s : State) : (s.restartIn).received = s.received := rfl

/-! ## `outWrite` -/

@[simp] theorem State.outWrite_cfg (s : State) (b : Byte) : (s.outWrite b).cfg = s.cfg := rfl
@[simp] theorem State.outWrite_cmdq (s : State) (b : Byte) : (s.outWrite b).cmdq = s.cmdq := rfl
@[simp] theorem State.outWrite_busy (s : State) (b : Byte) : (s.outWrite b).busy = s.busy := rfl
@[simp] theorem State.outWrite_err (s : State) (b : Byte) : (s.outWrite b).err = s.err := rfl
@[simp] theorem State.outWrite_endf (s : State) (b : Byte) : (s.outWrite b).endf = s.endf := rfl
@[simp] theorem State.outWrite_sent (s : State) (b : Byte) : (s.outWrite b).sent = s.sent := rfl
@[simp] theorem State.outWrite_result (s : State) (b : Byte) : (s.outWrite b).result = s.result := rfl
@[simp] theorem State.outWrite_errcode (s : State) (b : Byte) : (s.outWrite b).errcode = s.errcode := rfl
@[simp] theorem State.outWrite_freq (s : State) (b : Byte) : (s.outWrite b).freq = s.freq := rfl
@[simp] theorem State.outWrite_tree (s : State) (b : Byte) : (s.outWrite b).tree = s.tree := rfl
@[simp] theorem State.outWrite_len (s : State) (b : Byte) : (s.outWrite b).len = s.len := rfl
@[simp] theorem State.outWrite_code (s : State) (b : Byte) : (s.outWrite b).code = s.code := rfl
@[simp] theorem State.outWrite_bw (s : State) (b : Byte) : (s.outWrite b).bw = s.bw := rfl
@[simp] theorem State.outWrite_br (s : State) (b : Byte) : (s.outWrite b).br = s.br := rfl
@[simp] theorem State.outWrite_fph (s : State) (b : Byte) : (s.outWrite b).fph = s.fph := rfl
@[simp] theorem State.outWrite_inq (s : State) (b : Byte) : (s.outWrite b).inq = s.inq := rfl
@[simp] theorem State.outWrite_eos (s : State) (b : Byte) : (s.outWrite b).eos = s.eos := rfl
@[simp] theorem State.outWrite_out (s : State) (b : Byte) : (s.outWrite b).out = s.out ++ [b] := rfl
@[simp] theorem State.outWrite_schedule (s : State) (b : Byte) : (s.outWrite b).schedule = s.schedule := rfl
@[simp] theorem State.outWrite_reads (s : State) (b : Byte) : (s.outWrite b).reads = s.reads := rfl
@[simp] theorem State.outWrite_received (s : State) (b : Byte) : (s.outWrite b).received = s.received := rfl

/-! ## `outWriteAll` -/

@[simp] theorem State.outWriteAll_cfg (s : State) (bs : List Byte) : (s.outWriteAll bs).cfg = s.cfg := rfl
@[simp] theorem State.outWriteAll_cmdq (s : State) (bs : List Byte) : (s.outWriteAll bs).cmdq = s.cmdq := rfl
@[simp] theorem State.outWriteAll_busy (s : State) (bs : List Byte) : (s.outWriteAll bs).busy = s.busy := rfl
@[simp] theorem State.outWriteAll_err (s : State) (bs : List Byte) : (s.outWriteAll bs).err = s.err := rfl
@[simp] theorem State.outWriteAll_endf (s : State) (bs : List Byte) : (s.outWriteAll bs).endf = s.endf := rfl
@[simp] theorem State.outWriteAll_sent (s : State) (bs : List Byte) : (s.outWriteAll bs).sent = s.sent := rfl
@[simp] theorem State.outWriteAll_result (s : State) (bs : List Byte) : (s.outWriteAll bs).result = s.result := rfl
@[simp] theorem State.outWriteAll_errcode (s : State) (bs : List Byte) : (s.outWriteAll bs).errcode = s.errcode := rfl
@[simp] theorem State.outWriteAll_freq (s : State) (bs : List Byte) : (s.outWriteAll bs).freq = s.freq := rfl
@[simp] theorem State.outWriteAll_tree (s : State) (bs : List Byte) : (s.outWriteAll bs).tree = s.tree := rfl
@[simp] theorem State.outWriteAll_len (s : State) (bs : List Byte) : (s.outWriteAll bs).len = s.len := rfl
@[simp] theorem State.outWriteAll_code (s : State) (bs : List Byte) : (s.outWriteAll bs).code = s.code := rfl
@[simp] theorem State.outWriteAll_bw (s : State) (bs : List Byte) : (s.outWriteAll bs).bw = s.bw := rfl
@[simp] theorem State.outWriteAll_br (s : State) (bs : List Byte) : (s.outWriteAll bs).br = s.br := rfl
@[simp] theorem State.outWriteAll_fph (s : State) (bs : List Byte) : (s.outWriteAll bs).fph = s.fph := rfl
@[simp] theorem State.outWriteAll_inq (s : State) (bs : List Byte) : (s.outWriteAll bs).inq = s.inq := rfl
@[simp] theorem State.outWriteAll_eos (s : State) (bs : List Byte) : (s.outWriteAll bs).eos = s.eos := rfl
@[simp] theorem State.outWriteAll_out (s : State) (bs : List Byte) : (s.outWriteAll bs).out = s.out ++ bs := rfl
@[simp] theorem State.outWriteAll_schedule (s : State) (bs : List Byte) : (s.outWriteAll bs).schedule = s.schedule := rfl
@[simp] theorem State.outWriteAll_reads (s : State) (bs : List Byte) : (s.outWriteAll bs).reads = s.reads := rfl
@[simp] theorem State.outWriteAll_received (s : State) (bs : List Byte) : (s.outWriteAll bs).received = s.received := rfl

/-! ## `toPhase` -/

@[simp] theorem State.toPhase_cfg (s : State) (p : Phase) : (s.toPhase p).cfg = s.cfg := rfl
@[simp] theorem State.toPhase_cmdq (s : State) (p : Phase) : (s.toPhase p).cmdq = s.cmdq := rfl
@[simp] theorem State.toPhase_busy (s : State) (p : Phase) : (s.toPhase p).busy = s.busy := rfl
@[simp] theorem State.toPhase_err (s : State) (p : Phase) : (s.toPhase p).err = s.err := rfl
@[simp] theorem State.toPhase_endf (s : State) (p : Phase) : (s.toPhase p).endf = s.endf := rfl
@[simp] theorem State.toPhase_sent (s : State) (p : Phase) : (s.toPhase p).sent = s.sent := rfl
@[simp] theorem State.toPhase_result (s : State) (p : Phase) : (s.toPhase p).result = s.result := rfl
@[simp] theorem State.toPhase_errcode (s : State) (p : Phase) : (s.toPhase p).errcode = s.errcode := rfl
@[simp] theorem State.toPhase_freq (s : State) (p : Phase) : (s.toPhase p).freq = s.freq := rfl
@[simp] theorem State.toPhase_tree (s : State) (p : Phase) : (s.toPhase p).tree = s.tree := rfl
@[simp] theorem State.toPhase_len (s : State) (p : Phase) : (s.toPhase p).len = s.len := rfl
@[simp] theorem State.toPhase_code (s : State) (p : Phase) : (s.toPhase p).code = s.code := rfl
@[simp] theorem State.toPhase_bw (s : State) (p : Phase) : (s.toPhase p).bw = s.bw := rfl
@[simp] theorem State.toPhase_br (s : State) (p : Phase) : (s.toPhase p).br = s.br := rfl
@[simp] theorem State.toPhase_fph (s : State) (p : Phase) : (s.toPhase p).fph = p := rfl
@[simp] theorem State.toPhase_inq (s : State) (p : Phase) : (s.toPhase p).inq = s.inq := rfl
@[simp] theorem State.toPhase_eos (s : State) (p : Phase) : (s.toPhase p).eos = s.eos := rfl
@[simp] theorem State.toPhase_out (s : State) (p : Phase) : (s.toPhase p).out = s.out := rfl
@[simp] theorem State.toPhase_schedule (s : State) (p : Phase) : (s.toPhase p).schedule = s.schedule := rfl
@[simp] theorem State.toPhase_reads (s : State) (p : Phase) : (s.toPhase p).reads = s.reads := rfl
@[simp] theorem State.toPhase_received (s : State) (p : Phase) : (s.toPhase p).received = s.received := rfl

/-! ## `openReader` -/

@[simp] theorem State.openReader_cfg (s : State) : (s.openReader).cfg = s.cfg := rfl
@[simp] theorem State.openReader_cmdq (s : State) : (s.openReader).cmdq = s.cmdq := rfl
@[simp] theorem State.openReader_busy (s : State) : (s.openReader).busy = s.busy := rfl
@[simp] theorem State.openReader_err (s : State) : (s.openReader).err = s.err := rfl
@[simp] theorem State.openReader_endf (s : State) : (s.openReader).endf = s.endf := rfl
@[simp] theorem State.openReader_sent (s : State) : (s.openReader).sent = s.sent := rfl
@[simp] theorem State.openReader_result (s : State) : (s.openReader).result = s.result := rfl
@[simp] theorem State.openReader_errcode (s : State) : (s.openReader).errcode = s.errcode := rfl
@[simp] theorem State.openReader_freq (s : State) : (s.openReader).freq = s.freq := rfl
@[simp] theorem State.openReader_tree (s : State) : (s.openReader).tree = s.tree := rfl
@[simp] theorem State.openReader_len (s : State) : (s.openReader).len = s.len := rfl
@[simp] theorem State.openReader_code (s : State) : (s.openReader).code = s.code := rfl
@[simp] theorem State.openReader_bw (s : State) : (s.openReader).bw = s.bw := rfl
@[simp] theorem State.openReader_br (s : State) : (s.openReader).br = ⟨0x00#8, 0, false⟩ := rfl
@[simp] theorem State.openReader_fph (s : State) : (s.openReader).fph = s.fph := rfl
@[simp] theorem State.openReader_inq (s : State) : (s.openReader).inq = s.inq := rfl
@[simp] theorem State.openReader_eos (s : State) : (s.openReader).eos = s.eos := rfl
@[simp] theorem State.openReader_out (s : State) : (s.openReader).out = s.out := rfl
@[simp] theorem State.openReader_schedule (s : State) : (s.openReader).schedule = s.schedule := rfl
@[simp] theorem State.openReader_reads (s : State) : (s.openReader).reads = s.reads := rfl
@[simp] theorem State.openReader_received (s : State) : (s.openReader).received = s.received := rfl

/-! ## `closeReader` -/

@[simp] theorem State.closeReader_cfg (s : State) : (s.closeReader).cfg = s.cfg := rfl
@[simp] theorem State.closeReader_cmdq (s : State) : (s.closeReader).cmdq = s.cmdq := rfl
@[simp] theorem State.closeReader_busy (s : State) : (s.closeReader).busy = s.busy := rfl
@[simp] theorem State.closeReader_err (s : State) : (s.closeReader).err = s.err := rfl
@[simp] theorem State.closeReader_endf (s : State) : (s.closeReader).endf = s.endf := rfl
@[simp] theorem State.closeReader_sent (s : State) : (s.closeReader).sent = s.sent := rfl
@[simp] theorem State.closeReader_result (s : State) : (s.closeReader).result = s.result := rfl
@[simp] theorem State.closeReader_errcode (s : State) : (s.closeReader).errcode = s.errcode := rfl
@[simp] theorem State.closeReader_freq (s : State) : (s.closeReader).freq = s.freq := rfl
@[simp] theorem State.closeReader_tree (s : State) : (s.closeReader).tree = s.tree := rfl
@[simp] theorem State.closeReader_len (s : State) : (s.closeReader).len = s.len := rfl
@[simp] theorem State.closeReader_code (s : State) : (s.closeReader).code = s.code := rfl
@[simp] theorem State.closeReader_bw (s : State) : (s.closeReader).bw = s.bw := rfl
@[simp] theorem State.closeReader_br (s : State) : (s.closeReader).br = ⟨0x00#8, 0, true⟩ := rfl
@[simp] theorem State.closeReader_fph (s : State) : (s.closeReader).fph = s.fph := rfl
@[simp] theorem State.closeReader_inq (s : State) : (s.closeReader).inq = s.inq := rfl
@[simp] theorem State.closeReader_eos (s : State) : (s.closeReader).eos = s.eos := rfl
@[simp] theorem State.closeReader_out (s : State) : (s.closeReader).out = s.out := rfl
@[simp] theorem State.closeReader_schedule (s : State) : (s.closeReader).schedule = s.schedule := rfl
@[simp] theorem State.closeReader_reads (s : State) : (s.closeReader).reads = s.reads := rfl
@[simp] theorem State.closeReader_received (s : State) : (s.closeReader).received = s.received := rfl

/-! ## `softReset` -/

@[simp] theorem State.softReset_cfg (s : State) : (s.softReset).cfg = s.cfg := rfl
@[simp] theorem State.softReset_cmdq (s : State) : (s.softReset).cmdq = s.cmdq := rfl
@[simp] theorem State.softReset_busy (s : State) : (s.softReset).busy = false := rfl
@[simp] theorem State.softReset_err (s : State) : (s.softReset).err = false := rfl
@[simp] theorem State.softReset_endf (s : State) : (s.softReset).endf = false := rfl
@[simp] theorem State.softReset_sent (s : State) : (s.softReset).sent = false := rfl
@[simp] theorem State.softReset_result (s : State) : (s.softReset).result = 0#32 := rfl
@[simp] theorem State.softReset_errcode (s : State) : (s.softReset).errcode = .noError := rfl
@[simp] theorem State.softReset_freq (s : State) : (s.softReset).freq = freqZero := rfl
@[simp] theorem State.softReset_tree (s : State) : (s.softReset).tree = none := rfl
@[simp] theorem State.softReset_len (s : State) : (s.softReset).len = lenZero := rfl
@[simp] theorem State.softReset_code (s : State) : (s.softReset).code = none := rfl
@[simp] theorem State.softReset_bw (s : State) : (s.softReset).bw = [] := rfl
@[simp] theorem State.softReset_br (s : State) : (s.softReset).br = ⟨0x00#8, 0, true⟩ := rfl
@[simp] theorem State.softReset_fph (s : State) : (s.softReset).fph = .idle := rfl
@[simp] theorem State.softReset_inq (s : State) : (s.softReset).inq = [] := rfl
@[simp] theorem State.softReset_eos (s : State) : (s.softReset).eos = false := rfl
@[simp] theorem State.softReset_out (s : State) : (s.softReset).out = s.out := rfl
@[simp] theorem State.softReset_schedule (s : State) : (s.softReset).schedule = s.schedule := rfl
@[simp] theorem State.softReset_reads (s : State) : (s.softReset).reads = s.reads := rfl
@[simp] theorem State.softReset_received (s : State) : (s.softReset).received = s.received := rfl

/-! ## `issue` -/

@[simp] theorem State.issue_cfg (s : State) (w : Word) : (s.issue w).cfg = s.cfg := rfl
@[simp] theorem State.issue_cmdq (s : State) (w : Word) : (s.issue w).cmdq = s.cmdq ++ [w] := rfl
@[simp] theorem State.issue_busy (s : State) (w : Word) : (s.issue w).busy = true := rfl
@[simp] theorem State.issue_err (s : State) (w : Word) : (s.issue w).err = s.err := rfl
@[simp] theorem State.issue_endf (s : State) (w : Word) : (s.issue w).endf = s.endf := rfl
@[simp] theorem State.issue_sent (s : State) (w : Word) : (s.issue w).sent = s.sent := rfl
@[simp] theorem State.issue_result (s : State) (w : Word) : (s.issue w).result = s.result := rfl
@[simp] theorem State.issue_errcode (s : State) (w : Word) : (s.issue w).errcode = s.errcode := rfl
@[simp] theorem State.issue_freq (s : State) (w : Word) : (s.issue w).freq = s.freq := rfl
@[simp] theorem State.issue_tree (s : State) (w : Word) : (s.issue w).tree = s.tree := rfl
@[simp] theorem State.issue_len (s : State) (w : Word) : (s.issue w).len = s.len := rfl
@[simp] theorem State.issue_code (s : State) (w : Word) : (s.issue w).code = s.code := rfl
@[simp] theorem State.issue_bw (s : State) (w : Word) : (s.issue w).bw = s.bw := rfl
@[simp] theorem State.issue_br (s : State) (w : Word) : (s.issue w).br = s.br := rfl
@[simp] theorem State.issue_fph (s : State) (w : Word) : (s.issue w).fph = s.fph := rfl
@[simp] theorem State.issue_inq (s : State) (w : Word) : (s.issue w).inq = s.inq := rfl
@[simp] theorem State.issue_eos (s : State) (w : Word) : (s.issue w).eos = s.eos := rfl
@[simp] theorem State.issue_out (s : State) (w : Word) : (s.issue w).out = s.out := rfl
@[simp] theorem State.issue_schedule (s : State) (w : Word) : (s.issue w).schedule = s.schedule := rfl
@[simp] theorem State.issue_reads (s : State) (w : Word) : (s.issue w).reads = s.reads := rfl
@[simp] theorem State.issue_received (s : State) (w : Word) : (s.issue w).received = s.received := rfl

/-! ## `withWordNext` -/

@[simp] theorem State.withWordNext_cfg (s : State) (w : Word) : (s.withWordNext w).cfg = s.cfg := rfl
@[simp] theorem State.withWordNext_cmdq (s : State) (w : Word) : (s.withWordNext w).cmdq = w :: s.cmdq := rfl
@[simp] theorem State.withWordNext_busy (s : State) (w : Word) : (s.withWordNext w).busy = s.busy := rfl
@[simp] theorem State.withWordNext_err (s : State) (w : Word) : (s.withWordNext w).err = s.err := rfl
@[simp] theorem State.withWordNext_endf (s : State) (w : Word) : (s.withWordNext w).endf = s.endf := rfl
@[simp] theorem State.withWordNext_sent (s : State) (w : Word) : (s.withWordNext w).sent = s.sent := rfl
@[simp] theorem State.withWordNext_result (s : State) (w : Word) : (s.withWordNext w).result = s.result := rfl
@[simp] theorem State.withWordNext_errcode (s : State) (w : Word) : (s.withWordNext w).errcode = s.errcode := rfl
@[simp] theorem State.withWordNext_freq (s : State) (w : Word) : (s.withWordNext w).freq = s.freq := rfl
@[simp] theorem State.withWordNext_tree (s : State) (w : Word) : (s.withWordNext w).tree = s.tree := rfl
@[simp] theorem State.withWordNext_len (s : State) (w : Word) : (s.withWordNext w).len = s.len := rfl
@[simp] theorem State.withWordNext_code (s : State) (w : Word) : (s.withWordNext w).code = s.code := rfl
@[simp] theorem State.withWordNext_bw (s : State) (w : Word) : (s.withWordNext w).bw = s.bw := rfl
@[simp] theorem State.withWordNext_br (s : State) (w : Word) : (s.withWordNext w).br = s.br := rfl
@[simp] theorem State.withWordNext_fph (s : State) (w : Word) : (s.withWordNext w).fph = s.fph := rfl
@[simp] theorem State.withWordNext_inq (s : State) (w : Word) : (s.withWordNext w).inq = s.inq := rfl
@[simp] theorem State.withWordNext_eos (s : State) (w : Word) : (s.withWordNext w).eos = s.eos := rfl
@[simp] theorem State.withWordNext_out (s : State) (w : Word) : (s.withWordNext w).out = s.out := rfl
@[simp] theorem State.withWordNext_schedule (s : State) (w : Word) : (s.withWordNext w).schedule = .core :: s.schedule := rfl
@[simp] theorem State.withWordNext_reads (s : State) (w : Word) : (s.withWordNext w).reads = s.reads := rfl
@[simp] theorem State.withWordNext_received (s : State) (w : Word) : (s.withWordNext w).received = s.received := rfl

/-! ## `completed` -/

@[simp] theorem State.completed_cfg (s : State) : (s.completed).cfg = s.cfg := rfl
@[simp] theorem State.completed_cmdq (s : State) : (s.completed).cmdq = s.cmdq := rfl
@[simp] theorem State.completed_busy (s : State) : (s.completed).busy = false := rfl
@[simp] theorem State.completed_err (s : State) : (s.completed).err = false := rfl
@[simp] theorem State.completed_endf (s : State) : (s.completed).endf = false := rfl
@[simp] theorem State.completed_sent (s : State) : (s.completed).sent = false := rfl
@[simp] theorem State.completed_result (s : State) : (s.completed).result = s.result := rfl
@[simp] theorem State.completed_errcode (s : State) : (s.completed).errcode = .noError := rfl
@[simp] theorem State.completed_freq (s : State) : (s.completed).freq = s.freq := rfl
@[simp] theorem State.completed_tree (s : State) : (s.completed).tree = s.tree := rfl
@[simp] theorem State.completed_len (s : State) : (s.completed).len = s.len := rfl
@[simp] theorem State.completed_code (s : State) : (s.completed).code = s.code := rfl
@[simp] theorem State.completed_bw (s : State) : (s.completed).bw = s.bw := rfl
@[simp] theorem State.completed_br (s : State) : (s.completed).br = s.br := rfl
@[simp] theorem State.completed_fph (s : State) : (s.completed).fph = s.fph := rfl
@[simp] theorem State.completed_inq (s : State) : (s.completed).inq = s.inq := rfl
@[simp] theorem State.completed_eos (s : State) : (s.completed).eos = s.eos := rfl
@[simp] theorem State.completed_out (s : State) : (s.completed).out = s.out := rfl
@[simp] theorem State.completed_schedule (s : State) : (s.completed).schedule = s.schedule := rfl
@[simp] theorem State.completed_reads (s : State) : (s.completed).reads = s.reads := rfl
@[simp] theorem State.completed_received (s : State) : (s.completed).received = s.received := rfl

/-! ## `failed` -/

@[simp] theorem State.failed_cfg (s : State) (e : ErrCode) (info : Word) : (s.failed e info).cfg = s.cfg := rfl
@[simp] theorem State.failed_cmdq (s : State) (e : ErrCode) (info : Word) : (s.failed e info).cmdq = s.cmdq := rfl
@[simp] theorem State.failed_busy (s : State) (e : ErrCode) (info : Word) : (s.failed e info).busy = false := rfl
@[simp] theorem State.failed_err (s : State) (e : ErrCode) (info : Word) : (s.failed e info).err = true := rfl
@[simp] theorem State.failed_endf (s : State) (e : ErrCode) (info : Word) : (s.failed e info).endf = false := rfl
@[simp] theorem State.failed_sent (s : State) (e : ErrCode) (info : Word) : (s.failed e info).sent = false := rfl
@[simp] theorem State.failed_result (s : State) (e : ErrCode) (info : Word) : (s.failed e info).result = info := rfl
@[simp] theorem State.failed_errcode (s : State) (e : ErrCode) (info : Word) : (s.failed e info).errcode = e := rfl
@[simp] theorem State.failed_freq (s : State) (e : ErrCode) (info : Word) : (s.failed e info).freq = s.freq := rfl
@[simp] theorem State.failed_tree (s : State) (e : ErrCode) (info : Word) : (s.failed e info).tree = s.tree := rfl
@[simp] theorem State.failed_len (s : State) (e : ErrCode) (info : Word) : (s.failed e info).len = s.len := rfl
@[simp] theorem State.failed_code (s : State) (e : ErrCode) (info : Word) : (s.failed e info).code = s.code := rfl
@[simp] theorem State.failed_bw (s : State) (e : ErrCode) (info : Word) : (s.failed e info).bw = s.bw := rfl
@[simp] theorem State.failed_br (s : State) (e : ErrCode) (info : Word) : (s.failed e info).br = s.br := rfl
@[simp] theorem State.failed_fph (s : State) (e : ErrCode) (info : Word) : (s.failed e info).fph = s.fph := rfl
@[simp] theorem State.failed_inq (s : State) (e : ErrCode) (info : Word) : (s.failed e info).inq = s.inq := rfl
@[simp] theorem State.failed_eos (s : State) (e : ErrCode) (info : Word) : (s.failed e info).eos = s.eos := rfl
@[simp] theorem State.failed_out (s : State) (e : ErrCode) (info : Word) : (s.failed e info).out = s.out := rfl
@[simp] theorem State.failed_schedule (s : State) (e : ErrCode) (info : Word) : (s.failed e info).schedule = s.schedule := rfl
@[simp] theorem State.failed_reads (s : State) (e : ErrCode) (info : Word) : (s.failed e info).reads = s.reads := rfl
@[simp] theorem State.failed_received (s : State) (e : ErrCode) (info : Word) : (s.failed e info).received = s.received := rfl

/-! ## `held` -/

@[simp] theorem State.held_cfg (s : State) : (s.held).cfg = s.cfg := rfl
@[simp] theorem State.held_cmdq (s : State) : (s.held).cmdq = s.cmdq := rfl
@[simp] theorem State.held_busy (s : State) : (s.held).busy = true := rfl
@[simp] theorem State.held_err (s : State) : (s.held).err = s.err := rfl
@[simp] theorem State.held_endf (s : State) : (s.held).endf = s.endf := rfl
@[simp] theorem State.held_sent (s : State) : (s.held).sent = s.sent := rfl
@[simp] theorem State.held_result (s : State) : (s.held).result = s.result := rfl
@[simp] theorem State.held_errcode (s : State) : (s.held).errcode = s.errcode := rfl
@[simp] theorem State.held_freq (s : State) : (s.held).freq = s.freq := rfl
@[simp] theorem State.held_tree (s : State) : (s.held).tree = s.tree := rfl
@[simp] theorem State.held_len (s : State) : (s.held).len = s.len := rfl
@[simp] theorem State.held_code (s : State) : (s.held).code = s.code := rfl
@[simp] theorem State.held_bw (s : State) : (s.held).bw = s.bw := rfl
@[simp] theorem State.held_br (s : State) : (s.held).br = s.br := rfl
@[simp] theorem State.held_fph (s : State) : (s.held).fph = s.fph := rfl
@[simp] theorem State.held_inq (s : State) : (s.held).inq = s.inq := rfl
@[simp] theorem State.held_eos (s : State) : (s.held).eos = s.eos := rfl
@[simp] theorem State.held_out (s : State) : (s.held).out = s.out := rfl
@[simp] theorem State.held_schedule (s : State) : (s.held).schedule = s.schedule := rfl
@[simp] theorem State.held_reads (s : State) : (s.held).reads = s.reads := rfl
@[simp] theorem State.held_received (s : State) : (s.held).received = s.received := rfl

end Sys2Proof.Machine
end

