-- ==== Sys2Proof/Laws/Ops.lean ====
section
/-! SUPPORT. One specification lemma per shared operation; later proofs cite these and do not unfold the operations. -/

namespace Sys2Proof.Machine

/-! ## Tables -/

theorem allSymbols_length : allSymbols.length = 257 := by simp [allSymbols]

theorem mem_allSymbols (s : Symbol) : s ∈ allSymbols := by simp [allSymbols]

@[simp] theorem entry_tabulate {α : Type} (f : Symbol → α) (s : Symbol) : entry (tabulate f) s = f s := by
  simp [entry, tabulate, allSymbols]

@[simp] theorem entry_setEntry_same {α : Type} (t : Vector α 257) (s : Symbol) (v : α) :
    entry (setEntry t s v) s = v := by
  simp [entry, setEntry]

theorem entry_setEntry_other {α : Type} (t : Vector α 257) {s x : Symbol} (v : α) (h : x ≠ s) :
    entry (setEntry t s v) x = entry t x := by
  have hne : s.val ≠ x.val := fun e => h (Fin.ext e.symm)
  simp [entry, setEntry, hne]

@[simp] theorem entry_freqZero (s : Symbol) : entry freqZero s = 0 := by simp [entry, freqZero]

@[simp] theorem entry_lenZero (s : Symbol) : entry lenZero s = 0x00#8 := by simp [entry, lenZero]

/-- Two tables with the same entries are the same table. -/
theorem table_ext {α : Type} {t u : Vector α 257} (h : ∀ s, entry t s = entry u s) : t = u := by
  apply Vector.ext
  intro i hi
  exact h ⟨i, hi⟩

theorem entry_countSymbol (f : FreqTable) (a x : Symbol) :
    entry (countSymbol f a) x = if x = a then entry f a + 1 else entry f x := by
  by_cases h : x = a
  · subst h; simp [countSymbol]
  · simp [countSymbol, entry_setEntry_other _ _ h, h]

theorem entry_tableOfBytes (bs : List Byte) (s : Symbol) : entry (tableOfBytes bs) s = bs.getD s.val 0x00#8 := by
  simp [tableOfBytes]

/-- Writing a length table out and reading it back gives the table (R147, R152). -/
theorem tableOfBytes_toList (len : LenTable) : tableOfBytes len.toList = len := by
  apply table_ext
  intro s
  rw [entry_tableOfBytes]
  simp [entry]

/-! ## The start and the end of a command -/

/-- Everything a command can answer. -/
theorem command_cases (rule : State → Ending) (s : State) :
    (∃ t, rule s.accept = .done t ∧ command rule s = .next t.complete) ∨
      (rule s.accept = .hold ∧ command rule s = .next s.wait) ∨
      ∃ r, rule s.accept = .stuck r ∧ command rule s = .fault r := by
  unfold command
  cases rule s.accept with
  | done t => exact .inl ⟨t, rfl, rfl⟩
  | hold => exact .inr (.inl ⟨rfl, rfl⟩)
  | stuck r => exact .inr (.inr ⟨r, rfl, rfl⟩)

theorem command_next {rule : State → Ending} {s t : State} (h : command rule s = .next t) :
    (∃ u, rule s.accept = .done u ∧ t = u.complete) ∨ (rule s.accept = .hold ∧ t = s.wait) := by
  rcases command_cases rule s with ⟨u, hr, hc⟩ | ⟨hr, hc⟩ | ⟨r, _, hc⟩
  · rw [hc] at h; injection h with h; exact .inl ⟨u, hr, h.symm⟩
  · rw [hc] at h; injection h with h; exact .inr ⟨hr, h.symm⟩
  · rw [hc] at h; injection h

/-- No command refuses. -/
theorem command_not_refused (rule : State → Ending) (s : State) (r : Refusal) : command rule s ≠ .refused r := by
  rcases command_cases rule s with ⟨u, _, hc⟩ | ⟨_, hc⟩ | ⟨q, _, hc⟩ <;> rw [hc] <;> exact fun h => by injection h

theorem command_done {rule : State → Ending} {s t : State} (h : rule s.accept = .done t) :
    command rule s = .next t.complete := by
  unfold command; rw [h]

theorem command_hold {rule : State → Ending} {s : State} (h : rule s.accept = .hold) :
    command rule s = .next s.wait := by
  unfold command; rw [h]

theorem command_stuck {rule : State → Ending} {s : State} {r : Fault} (h : rule s.accept = .stuck r) :
    command rule s = .fault r := by
  unfold command; rw [h]

@[simp] theorem accept_complete (s : State) : s.accept.complete = s.completed := rfl

@[simp] theorem report_accept_complete (s : State) (e : ErrCode) (info : Word) :
    (s.accept.report e info).complete = s.failed e info := rfl

@[simp] theorem wait_eq_held (s : State) : s.wait = s.held := rfl

/-! ## Errors, operands and phases -/

@[simp] theorem raise_eq (e : ErrCode) (info : Word) (s : State) : raise e info s = .done (s.report e info) := rfl

@[simp] theorem raiseFatal_eq (e : ErrCode) (info : Word) (s : State) :
    raiseFatal e info s = .done ((s.toPhase .fatal).report e info) := rfl

@[simp] theorem raiseEntry_eq (e : ErrCode) (info : Word) (s : State) :
    raiseEntry e info s = .done ((s.toPhase .rEntry).report e info) := rfl

theorem withSymbol_in {a : BitVec 9} (h : a.toNat < 257) (s : State) (rule : Symbol → Ending) :
    withSymbol a s rule = rule ⟨a.toNat, h⟩ := by
  simp [withSymbol, h]

theorem withSymbol_out {a : BitVec 9} (h : ¬ a.toNat < 257) (s : State) (rule : Symbol → Ending) :
    withSymbol a s rule = raise .symbolRange (a.setWidth 32) s := by
  simp [withSymbol, h]

theorem inPhase_in {ps : List Phase} {s : State} (h : s.fph ∈ ps) (rule : Ending) : inPhase ps s rule = rule := by
  simp [inPhase, h]

theorem inPhase_out {ps : List Phase} {s : State} (h : s.fph ∉ ps) (rule : Ending) :
    inPhase ps s rule = raise .sequence s.fph.word s := by
  simp [inPhase, h]

/-! ## IN -/

theorem inRead_cons {s : State} {b : Byte} {q : List Byte} (h : s.inq = b :: q) :
    inRead s = .byte b { s with inq := q } := by
  simp [inRead, h]

theorem inRead_atEnd {s : State} (h : s.inq = []) (he : s.eos = true) : inRead s = .atEnd := by
  simp [inRead, h, he]

theorem inRead_hold {s : State} (h : s.inq = []) (he : s.eos = false) : inRead s = .hold := by
  simp [inRead, h, he]

/-- Everything `InRead` can do. -/
theorem inRead_cases (s : State) :
    (∃ b q, s.inq = b :: q ∧ inRead s = .byte b { s with inq := q }) ∨
      (s.inq = [] ∧ s.eos = true ∧ inRead s = .atEnd) ∨ (s.inq = [] ∧ s.eos = false ∧ inRead s = .hold) := by
  cases hq : s.inq with
  | cons b q => exact .inl ⟨b, q, rfl, inRead_cons hq⟩
  | nil =>
    cases he : s.eos with
    | true => exact .inr (.inl ⟨rfl, rfl, inRead_atEnd hq he⟩)
    | false => exact .inr (.inr ⟨rfl, rfl, inRead_hold hq he⟩)

/-- Everything reading `n` bytes of IN can do: take them, take all there are and end, or hold. -/
theorem inReadMany_eq (n : Nat) (got : List Byte) (s : State) :
    inReadMany n got s =
      if n ≤ s.inq.length then .full (got.reverse ++ s.inq.take n) { s with inq := s.inq.drop n }
      else if s.eos = true then .short (got.length + s.inq.length) { s with inq := [] } else .hold := by
  induction n generalizing got s with
  | zero => simp [inReadMany]
  | succ n ih =>
    rcases inRead_cases s with ⟨b, q, hq, hr⟩ | ⟨hq, he, hr⟩ | ⟨hq, he, hr⟩
    · simp only [inReadMany, hr, ih, hq, List.length_cons, Nat.add_le_add_iff_right]
      split
      · simp
      · split
        · simp; omega
        · rfl
    · simp [inReadMany, hr, hq, he]; cases s; simp_all
    · simp [inReadMany, hr, hq, he]

/-- R224's loop finds the first `m` of the queue, whatever follows it. -/
theorem inReadUntil_found {m : Byte} (fuel : Nat) {s : State} {pre post : List Byte} (hq : s.inq = pre ++ m :: post)
    (hm : m ∉ pre) (hf : pre.length < fuel) : inReadUntil m fuel s = .found { s with inq := post } := by
  induction fuel generalizing s pre with
  | zero => omega
  | succ n ih =>
    cases pre with
    | nil => simp [inReadUntil, inRead_cons (s := s) (by simpa using hq)]
    | cons b pre =>
      have hb : b ≠ m := fun e => hm (by simp [e])
      have hr := inRead_cons (s := s) (b := b) (q := pre ++ m :: post) (by simpa using hq)
      have := ih (s := { s with inq := pre ++ m :: post }) (pre := pre) rfl (fun h => hm (by simp [h]))
        (by simp at hf; omega)
      simp [inReadUntil, hr, hb, this]

/-- R224's loop on a queue without `m`: it ends with the stream, or holds. -/
theorem inReadUntil_absent {m : Byte} (fuel : Nat) {s : State} (hm : m ∉ s.inq) (hf : s.inq.length < fuel) :
    inReadUntil m fuel s = if s.eos = true then .atEnd { s with inq := [] } else .hold := by
  induction fuel generalizing s with
  | zero => omega
  | succ n ih =>
    rcases inRead_cases s with ⟨b, q, hq, hr⟩ | ⟨hq, he, hr⟩ | ⟨hq, he, hr⟩
    · have hb : b ≠ m := fun e => hm (by simp [hq, e])
      have := ih (s := { s with inq := q }) (fun h => hm (by simp [hq]; exact .inr h)) (by simp [hq] at hf; simpa using hf)
      simp [inReadUntil, hr, hb, this]
    · simp [inReadUntil, hr, he]; cases s; simp_all
    · simp [inReadUntil, hr, he]

/-! ## BitReader and BitWriter -/

/-- Everything `BRGet` can do. -/
theorem brGet_cases (s : State) :
    (s.br.closed = true ∧ brGet s = .atEnd) ∨
      (s.br.closed = false ∧ s.br.rem ≠ 0 ∧ brGet s = takeBit s) ∨
      (s.br.closed = false ∧ s.br.rem = 0 ∧ ∃ c q, s.inq = c :: q ∧
        brGet s = .bit (c.getLsbD 7) { s with inq := q, br := ⟨c, 7, false⟩ }) ∨
      (s.br.closed = false ∧ s.br.rem = 0 ∧ s.inq = [] ∧ s.eos = true ∧ brGet s = .atEnd) ∨
      (s.br.closed = false ∧ s.br.rem = 0 ∧ s.inq = [] ∧ s.eos = false ∧ brGet s = .hold) := by
  cases hc : s.br.closed with
  | true => exact .inl ⟨rfl, by simp [brGet, hc]⟩
  | false =>
    refine .inr ?_
    by_cases hr : s.br.rem = 0
    · refine .inr ?_
      rcases inRead_cases s with ⟨c, q, hq, hi⟩ | ⟨hq, he, hi⟩ | ⟨hq, he, hi⟩
      · exact .inl ⟨rfl, hr, c, q, hq, by simp [brGet, hc, hr, hi, takeBit]⟩
      · exact .inr (.inl ⟨rfl, hr, hq, he, by simp [brGet, hc, hr, hi]⟩)
      · exact .inr (.inr ⟨rfl, hr, hq, he, by simp [brGet, hc, hr, hi]⟩)
    · exact .inl ⟨rfl, hr, by simp [brGet, hc, hr]⟩

/-- `BWPut` changes only OUT and the BitWriter. -/
theorem bwPut_frame (s : State) (b : Bool) : ∃ out bw, s.bwPut b = { s with out := out, bw := bw } := by
  unfold State.bwPut State.outWrite
  split
  · exact ⟨_, _, rfl⟩
  · exact ⟨s.out, _, rfl⟩

/-- Emitting a code changes only OUT and the BitWriter. -/
theorem bwPutAll_frame (s : State) (x : Bits) : ∃ out bw, s.bwPutAll x = { s with out := out, bw := bw } := by
  induction x generalizing s with
  | nil => exact ⟨s.out, s.bw, rfl⟩
  | cons b x ih =>
    obtain ⟨o, w, h⟩ := bwPut_frame s b
    obtain ⟨o', w', h'⟩ := ih (s.bwPut b)
    exact ⟨o', w', by rw [show s.bwPutAll (b :: x) = (s.bwPut b).bwPutAll x from rfl, h', h]⟩

/-- `BWClose` changes only OUT and the BitWriter, and leaves the BitWriter empty. -/
theorem bwClose_frame (s : State) : ∃ out, s.bwClose = { s with out := out, bw := [] } := by
  unfold State.bwClose State.outWrite
  split
  · exact ⟨_, rfl⟩
  · exact ⟨s.out, rfl⟩

/-- What a walk changes when it does not hold: IN's queue and the BitReader, nothing else. -/
theorem walk_frame (n : CodeTree) (s : State) :
    (∃ x q r, walk n s = .symbol x { s with inq := q, br := r }) ∨ (∃ q r, walk n s = .ended { s with inq := q, br := r }) ∨
      walk n s = .hold := by
  induction n generalizing s with
  | leaf x => exact .inl ⟨x, s.inq, s.br, rfl⟩
  | node l r ihl ihr =>
    have go : ∀ b q br, brGet s = .bit b { s with inq := q, br := br } →
        (∃ x q r', walk (.node l r) s = .symbol x { s with inq := q, br := r' }) ∨
          (∃ q r', walk (.node l r) s = .ended { s with inq := q, br := r' }) ∨ walk (.node l r) s = .hold := by
      intro b q br h
      cases b with
      | true =>
        rcases ihr { s with inq := q, br := br } with ⟨x, q', r', h'⟩ | ⟨q', r', h'⟩ | h'
        · exact .inl ⟨x, q', r', by simp [walk, h, h']⟩
        · exact .inr (.inl ⟨q', r', by simp [walk, h, h']⟩)
        · exact .inr (.inr (by simp [walk, h, h']))
      | false =>
        rcases ihl { s with inq := q, br := br } with ⟨x, q', r', h'⟩ | ⟨q', r', h'⟩ | h'
        · exact .inl ⟨x, q', r', by simp [walk, h, h']⟩
        · exact .inr (.inl ⟨q', r', by simp [walk, h, h']⟩)
        · exact .inr (.inr (by simp [walk, h, h']))
    rcases brGet_cases s with ⟨_, h⟩ | ⟨_, _, h⟩ | ⟨_, _, c, q, _, h⟩ | ⟨_, _, _, _, h⟩ | ⟨_, _, _, _, h⟩
    · exact .inr (.inl ⟨s.inq, s.br, by simp [walk, h]⟩)
    · exact go _ s.inq _ (by rw [h]; rfl)
    · exact go _ q _ h
    · exact .inr (.inl ⟨s.inq, s.br, by simp [walk, h]⟩)
    · exact .inr (.inr (by simp [walk, h]))

/-! ## exec -/

/-- Every meaning is one command: it starts with R251's clearing and ends as `command` says. -/
theorem exec_is_command (i : Instr) : ∃ rule, ∀ s, exec i s = command rule s := by
  cases i <;> simp only [
    exec, execNop, execSrst, execBrOpen, execBrGet, execBrClose, execBwPut, execBwClose, execFreqClr,
    execFreqInc, execFreqGet, execTreeBuild, execLenFromTree, execTreeFromLen, execLenGet, execLenSet,
    execLenClr, execLenEmit, execLenLoad, execCodeGen, execCodeLen, execCodeBit, execEncSym, execEncEnd,
    execDecSym, execAwBegin, execAwPbyte, execAwPend, execAwMend, execAwDir, execAwFile, execAwCount,
    execAwFilehdr, execAwSym, execAwFend, execAwEnd, execArMagic, execArMbyte, execArSkipm, execArEntry,
    execArPbyte, execArFilehdr, execArSym, execArEnd, execFrAbort] <;>
    exact ⟨_, fun _ => rfl⟩

/-- No instruction refuses. -/
theorem exec_not_refused (i : Instr) (s : State) (r : Refusal) : exec i s ≠ .refused r := by
  obtain ⟨rule, h⟩ := exec_is_command i
  rw [h]
  exact command_not_refused rule s r

/-! ## The core's step -/

theorem coreStep_idle {s : State} (h : s.cmdq = []) : coreStep s = .next s := by simp [coreStep, h]

theorem coreStep_next {s t : State} {w : Word} {rest : List Word} (h : s.cmdq = w :: rest)
    (hr : runWord w s = .next t) : coreStep s = .next t.retire := by simp [coreStep, h, hr]

theorem coreStep_fault {s : State} {w : Word} {rest : List Word} {r : Fault} (h : s.cmdq = w :: rest)
    (hr : runWord w s = .fault r) : coreStep s = .fault r := by simp [coreStep, h, hr]

theorem runWord_ok {w : Word} {i : Instr} (h : decode w = .ok i) (s : State) : runWord w s = exec i s := by
  simp [runWord, h]

theorem runWord_error {w : Word} {e : DecodeError} (h : decode w = .error e) (s : State) :
    runWord w s = rejectWord e s := by
  simp [runWord, h]

end Sys2Proof.Machine
end

