-- ==== Sys2Proof/Laws/PerInstr.lean ====
section
/-! SUPPORT. Statements about every instruction as syntax. Family `Row`: the command's opcode, mnemonic and operand
class are a row of the opcode map (R75). -/

namespace Sys2Proof.Laws.Row

def Statement (i : Instr) : Prop := i.row ∈ opcodeMap

theorem nop : Statement .nop := List.mem_of_getElem? (i := 0) rfl

theorem srst : Statement .srst := List.mem_of_getElem? (i := 1) rfl

theorem brOpen : Statement .brOpen := List.mem_of_getElem? (i := 2) rfl

theorem brGet : Statement .brGet := List.mem_of_getElem? (i := 3) rfl

theorem brClose : Statement .brClose := List.mem_of_getElem? (i := 4) rfl

theorem bwPut (t : Bool) : Statement (.bwPut t) := List.mem_of_getElem? (i := 5) rfl

theorem bwClose : Statement .bwClose := List.mem_of_getElem? (i := 6) rfl

theorem freqClr : Statement .freqClr := List.mem_of_getElem? (i := 7) rfl

theorem freqInc (a : BitVec 9) : Statement (.freqInc a) := List.mem_of_getElem? (i := 8) rfl

theorem freqGet (a : BitVec 9) : Statement (.freqGet a) := List.mem_of_getElem? (i := 9) rfl

theorem treeBuild : Statement .treeBuild := List.mem_of_getElem? (i := 10) rfl

theorem lenFromTree : Statement .lenFromTree := List.mem_of_getElem? (i := 11) rfl

theorem treeFromLen : Statement .treeFromLen := List.mem_of_getElem? (i := 12) rfl

theorem lenGet (a : BitVec 9) : Statement (.lenGet a) := List.mem_of_getElem? (i := 13) rfl

theorem lenSet (a : BitVec 9) (v : Byte) : Statement (.lenSet a v) := List.mem_of_getElem? (i := 14) rfl

theorem lenClr : Statement .lenClr := List.mem_of_getElem? (i := 15) rfl

theorem lenEmit : Statement .lenEmit := List.mem_of_getElem? (i := 16) rfl

theorem lenLoad : Statement .lenLoad := List.mem_of_getElem? (i := 17) rfl

theorem codeGen : Statement .codeGen := List.mem_of_getElem? (i := 18) rfl

theorem codeLen (a : BitVec 9) : Statement (.codeLen a) := List.mem_of_getElem? (i := 19) rfl

theorem codeBit (a : BitVec 9) (v : Byte) : Statement (.codeBit a v) := List.mem_of_getElem? (i := 20) rfl

theorem encSym (a : BitVec 9) : Statement (.encSym a) := List.mem_of_getElem? (i := 21) rfl

theorem encEnd : Statement .encEnd := List.mem_of_getElem? (i := 22) rfl

theorem decSym : Statement .decSym := List.mem_of_getElem? (i := 23) rfl

theorem awBegin : Statement .awBegin := List.mem_of_getElem? (i := 24) rfl

theorem awPbyte (b : Byte) : Statement (.awPbyte b) := List.mem_of_getElem? (i := 25) rfl

theorem awPend : Statement .awPend := List.mem_of_getElem? (i := 26) rfl

theorem awMend : Statement .awMend := List.mem_of_getElem? (i := 27) rfl

theorem awDir : Statement .awDir := List.mem_of_getElem? (i := 28) rfl

theorem awFile : Statement .awFile := List.mem_of_getElem? (i := 29) rfl

theorem awCount (b : Byte) : Statement (.awCount b) := List.mem_of_getElem? (i := 30) rfl

theorem awFilehdr : Statement .awFilehdr := List.mem_of_getElem? (i := 31) rfl

theorem awSym (b : Byte) : Statement (.awSym b) := List.mem_of_getElem? (i := 32) rfl

theorem awFend : Statement .awFend := List.mem_of_getElem? (i := 33) rfl

theorem awEnd : Statement .awEnd := List.mem_of_getElem? (i := 34) rfl

theorem arMagic : Statement .arMagic := List.mem_of_getElem? (i := 35) rfl

theorem arMbyte : Statement .arMbyte := List.mem_of_getElem? (i := 36) rfl

theorem arSkipm : Statement .arSkipm := List.mem_of_getElem? (i := 37) rfl

theorem arEntry : Statement .arEntry := List.mem_of_getElem? (i := 38) rfl

theorem arPbyte : Statement .arPbyte := List.mem_of_getElem? (i := 39) rfl

theorem arFilehdr : Statement .arFilehdr := List.mem_of_getElem? (i := 40) rfl

theorem arSym : Statement .arSym := List.mem_of_getElem? (i := 41) rfl

theorem arEnd : Statement .arEnd := List.mem_of_getElem? (i := 42) rfl

theorem frAbort : Statement .frAbort := List.mem_of_getElem? (i := 43) rfl

end Sys2Proof.Laws.Row
end

