-- ==== Sys2Proof/Machine/Assembler.lean ====
section
/-! DEFINITION. The assembler syntax of R77 and the pseudo-commands of R78, from one line of text to command words.
This is notation: the core sees only the words. What R77 and R78 leave open of the text is log entry 20. -/

namespace Sys2Proof.Machine

/-- A decimal digit. -/
def decimalDigit (c : Char) : Option Nat :=
  if '0' ≤ c ∧ c ≤ '9' then some (c.toNat - '0'.toNat) else none

/-- A hexadecimal digit. -/
def hexDigit (c : Char) : Option Nat :=
  if 'a' ≤ c ∧ c ≤ 'f' then some (c.toNat - 'a'.toNat + 10)
  else if 'A' ≤ c ∧ c ≤ 'F' then some (c.toNat - 'A'.toNat + 10)
  else decimalDigit c

/-- The number of a list of digits, `acc` standing before them. -/
def digitsValue (base : Nat) (digit : Char → Option Nat) : List Char → Nat → Option Nat
  | [], acc => some acc
  | c :: cs, acc =>
    match digit c with
    | some d => digitsValue base digit cs (base * acc + d)
    | none => none

/-- R77: an operand is decimal, `0x` hexadecimal, a character in single quotes, or `SENT`. -/
def operandValue : List Char → Option Nat
  | [] => none
  | '0' :: 'x' :: c :: cs => digitsValue 16 hexDigit (c :: cs) 0
  | ['\'', c, '\''] => if c.toNat < 128 then some c.toNat else none
  | ['S', 'E', 'N', 'T'] => some 256
  | c :: cs => digitsValue 10 decimalDigit (c :: cs) 0

/-- The line without its comment (R77). A `;` between quotes starts none (log entry 20); `quoted` says whether an open
double quote stands before. -/
def withoutComment : Bool → List Char → List Char
  | _, [] => []
  | false, '\'' :: c :: '\'' :: cs => '\'' :: c :: '\'' :: withoutComment false cs
  | false, ';' :: _ => []
  | quoted, '"' :: cs => '"' :: withoutComment (!quoted) cs
  | quoted, c :: cs => c :: withoutComment quoted cs

/-- White space: a blank or a tab (log entry 20). -/
def isBlank (c : Char) : Bool := c == ' ' || c == '\t'

/-- What parts tokens: white space or a comma (log entry 20). -/
def isSeparator (c : Char) : Bool := isBlank c || c == ','

/-- The end of the piece under way, `piece` being its characters, latest first. -/
def flushPiece (piece : List Char) (rest : List (List Char)) : List (List Char) :=
  if piece = [] then rest else piece.reverse :: rest

/-- The tokens of a text: the pieces between separators, a character in single quotes being no separator. -/
def tokens : List Char → List Char → List (List Char)
  | [], piece => flushPiece piece []
  | '\'' :: c :: '\'' :: cs, piece => tokens cs ('\'' :: c :: '\'' :: piece)
  | c :: cs, piece => if isSeparator c = true then flushPiece piece (tokens cs []) else tokens cs (c :: piece)

/-- The bound an operand written for a class must stay below: the size of its field (R71). -/
def operandBound (k : OpClass) : Nat :=
  match k with
  | .n => 0
  | .s => 512
  | .b => 256
  | .t => 2
  | .sv => 512

/-- R77: one command of the map, from its mnemonic and operands. -/
def assembleCommand (row : OpRow) (operands : List (List Char)) : Option (List Word) :=
  match row.opClass, operands with
  | .n, [] => some [packWord row.op 0#9 0x00#8]
  | .sv, [a, v] =>
    match operandValue a, operandValue v with
    | some a, some v =>
      if a < 512 ∧ v < 256 then some [packWord row.op (BitVec.ofNat 9 a) (BitVec.ofNat 8 v)] else none
    | _, _ => none
  | .sv, _ => none
  | k, [a] =>
    match operandValue a with
    | some a => if a < operandBound k then some [packWord row.op (BitVec.ofNat 9 a) 0x00#8] else none
    | none => none
  | _, _ => none

/-- The text between double quotes, as bytes; white space may stand before and after it (log entry 20). -/
def quotedBytes (text : List Char) : Option (List Byte) :=
  match text.dropWhile isBlank with
  | '"' :: rest =>
    let body := rest.takeWhile (· ≠ '"')
    match rest.drop body.length with
    | '"' :: tail =>
      if tail.all isBlank && body.all (fun c => decide (c.toNat < 128)) then
        some (body.map fun c => BitVec.ofNat 8 c.toNat)
      else none
    | _ => none
  | _ => none

/-- R78: the pseudo-commands, `rest` being the line after the mnemonic. -/
def assemblePseudo (m : List Char) (rest : List Char) : Option (List Word) :=
  if m = "FREQ_SENT".toList then if tokens rest [] = [] then some (freqSent.map encode) else none
  else if m = "MKCODE".toList then if tokens rest [] = [] then some (mkcode.map encode) else none
  else if m = "ENC_BYTE".toList then
    match tokens rest [] with
    | [b] =>
      match operandValue b with
      | some b => if b < 256 then some ((encByte (BitVec.ofNat 8 b)).map encode) else none
      | none => none
    | _ => none
  else if m = "AW_PATH".toList then (quotedBytes rest).map fun p => (awPath p).map encode
  else if m = "AW_COUNTS".toList then (quotedBytes rest).map fun d => (awCounts d).map encode
  else if m = "AW_SYMS".toList then (quotedBytes rest).map fun d => (awSyms d).map encode
  else none

/-- R77, R78: the words of one line: white space, the mnemonic up to the first separator, and what it takes. A blank
line or a comment alone gives none (log entry 20). -/
def assembleLine (text : String) : Option (List Word) :=
  let line := (withoutComment false text.toList).dropWhile isBlank
  let m := line.takeWhile fun c => !isSeparator c
  let rest := line.drop m.length
  if line = [] then some []
  else
    match opcodeMap.find? fun row => row.mnemonic.toList == m with
    | some row => assembleCommand row (tokens rest [])
    | none => assemblePseudo m rest

end Sys2Proof.Machine
end

