-- ==== Sys2Proof/Tests/Slice0.lean ====
section
/-! SUPPORT. Tests with expected values from the spec's own vectors (95_test_vectors.md, named V- or P below) and from its
encoding tables, and for each obligation with hypotheses a witness that concrete states meet them. -/

namespace Sys2Proof.Tests

open Sys2Proof Sys2Proof.Machine

set_option Elab.async false

/-! ## Helpers -/

/-- What `f` reads of the state one step later, the step running the command word `w`. -/
def seen {α : Type} (f : State → α) (w : Nat) (s : State) : Option α :=
  match step (s.withFetchWord 32 w) with
  | .next t => some (f t)
  | .fault _ => none
  | .refused _ => none

/-- The `STATUS`, `RESULT` and `ERRCODE` registers, as numbers. -/
def regs (s : State) : Nat × Nat × Nat :=
  ((s.readRegister 0x04).toNat, (s.readRegister 0x08).toNat, (s.readRegister 0x0C).toNat)

/-- `RESULT`, `STATUS` and `BSTATE`, as the programs of the spec print them. -/
def shown (s : State) : Nat × Nat × Nat :=
  ((s.readRegister 0x08).toNat, (s.readRegister 0x04).toNat, (s.readRegister 0x10).toNat)

/-- The reset state in a phase. -/
def inPh (p : Phase) : State := { State.reset with fph := p }

/-- The reset state with bytes in IN, which has ended. -/
def withIn (bs : List Byte) : State := { State.reset with inq := bs, eos := true }

/-- The 257 length bytes of Scenario B (V-L21). -/
def lensB : List Byte := List.replicate 65 0x00#8 ++ [0x01#8, 0x02#8] ++ List.replicate 189 0x00#8 ++ [0x02#8]

/-- Scenario B's length table (V-L2). -/
def lenB : LenTable := ⟨lensB.toArray, by decide +kernel⟩

/-- Scenario B's counters without and with the sentinel's. -/
def freqB : FreqTable := setEntry (setEntry freqZero 0x41 2) 0x42 1

/-- Scenario B's greedy tree (V-T2). -/
def greedyB : CodeTree := .node (.leaf 0x41) (.node (.leaf 0x42) (.leaf 256))

/-- Scenario B's canonical tree (V-L7). -/
def treeB : CodeTree := .node (.node (.leaf 0x42) (.leaf 256)) (.leaf 0x41)

/-- Scenario B's codes in symbol order (V-C1). -/
def codesB : List (Option Bits) :=
  List.replicate 65 none ++ [some [true], some [false, false]] ++ List.replicate 189 none ++ [some [false, true]]

/-- Scenario B's codes (V-C1). -/
def codeB : CodeTable := ⟨codesB.toArray, by decide +kernel⟩

/-- Scenario B with its canonical tree and codes. -/
def stateB : State := { State.reset with len := lenB, tree := some treeB, code := some codeB }

/-- An open reader on a byte, `n` bits of it still to come. -/
def reading (b : Byte) (n : Nat) : State := { State.reset with br := ⟨b, n, false⟩, eos := true }

/-! ## WellFormed: each check refuses an ill-formed term -/

theorem test_wellFormed_refuses_symbols_above_256 :
    (Instr.freqInc 257#9).wellFormed = false ∧
    (Instr.freqGet 257#9).wellFormed = false ∧
    (Instr.lenGet 300#9).wellFormed = false ∧
    (Instr.lenSet 257#9 1#8).wellFormed = false ∧
    (Instr.codeLen 511#9).wellFormed = false ∧
    (Instr.codeBit 300#9 0#8).wellFormed = false ∧
    (Instr.encSym 257#9).wellFormed = false := by decide

theorem test_wellFormed_admits_the_sentinel :
    (Instr.freqInc 256#9).wellFormed = true ∧
    (Instr.freqGet 256#9).wellFormed = true ∧
    (Instr.lenGet 256#9).wellFormed = true ∧
    (Instr.lenSet 256#9 255#8).wellFormed = true ∧
    (Instr.codeLen 256#9).wellFormed = true ∧
    (Instr.codeBit 256#9 255#8).wellFormed = true ∧
    (Instr.encSym 256#9).wellFormed = true := by decide

/-! ## Decoding: every row's word, written out from 30_encoding.md (`RSV V A OP`, R70) -/

theorem test_decode_control :
    decodeTableWord 32 0x00000000 = some .nop ∧
    decodeTableWord 32 0x00000001 = some .srst := by decide

theorem test_decode_bitstream :
    decodeTableWord 32 0x00000010 = some .brOpen ∧
    decodeTableWord 32 0x00000011 = some .brGet ∧
    decodeTableWord 32 0x00000012 = some .brClose ∧
    decodeTableWord 32 0b0000000_00000000_000000001_00011000 = some (.bwPut true) ∧
    decodeTableWord 32 0b0000000_00000000_000000000_00011000 = some (.bwPut false) ∧
    decodeTableWord 32 0x00000019 = some .bwClose := by decide

theorem test_decode_frequency_and_tree :
    decodeTableWord 32 0x00000020 = some .freqClr ∧
    decodeTableWord 32 0b0000000_00000000_001000001_00100001 = some (.freqInc 0x41#9) ∧
    decodeTableWord 32 0b0000000_00000000_100000000_00100010 = some (.freqGet 256#9) ∧
    decodeTableWord 32 0x00000030 = some .treeBuild := by decide

theorem test_decode_canonicalizer :
    decodeTableWord 32 0x00000040 = some .lenFromTree ∧
    decodeTableWord 32 0x00000041 = some .treeFromLen ∧
    decodeTableWord 32 0b0000000_00000000_100000000_01000010 = some (.lenGet 256#9) ∧
    decodeTableWord 32 0b0000000_11111110_001000001_01000011 = some (.lenSet 0x41#9 0xFE#8) ∧
    decodeTableWord 32 0x00000044 = some .lenClr ∧
    decodeTableWord 32 0x00000045 = some .lenEmit ∧
    decodeTableWord 32 0x00000046 = some .lenLoad := by decide

theorem test_decode_codes_and_coders :
    decodeTableWord 32 0x00000050 = some .codeGen ∧
    decodeTableWord 32 0b0000000_00000000_001000010_01010001 = some (.codeLen 0x42#9) ∧
    decodeTableWord 32 0b0000000_00000001_100000000_01010010 = some (.codeBit 256#9 1#8) ∧
    decodeTableWord 32 0b0000000_00000000_000000011_01010011 = some (.encSym 3#9) ∧
    decodeTableWord 32 0x00000054 = some .encEnd ∧
    decodeTableWord 32 0x00000060 = some .decSym := by decide

theorem test_decode_archive_writer :
    decodeTableWord 32 0x00000070 = some .awBegin ∧
    decodeTableWord 32 0b0000000_00000000_011111111_01110001 = some (.awPbyte 0xFF#8) ∧
    decodeTableWord 32 0x00000072 = some .awPend ∧
    decodeTableWord 32 0x00000073 = some .awMend ∧
    decodeTableWord 32 0x00000074 = some .awDir ∧
    decodeTableWord 32 0x00000075 = some .awFile ∧
    decodeTableWord 32 0b0000000_00000000_001000001_01110110 = some (.awCount 0x41#8) ∧
    decodeTableWord 32 0x00000077 = some .awFilehdr ∧
    decodeTableWord 32 0b0000000_00000000_001000010_01111000 = some (.awSym 0x42#8) ∧
    decodeTableWord 32 0x00000079 = some .awFend ∧
    decodeTableWord 32 0x0000007A = some .awEnd := by decide

theorem test_decode_archive_reader :
    decodeTableWord 32 0x00000080 = some .arMagic ∧
    decodeTableWord 32 0x00000081 = some .arMbyte ∧
    decodeTableWord 32 0x00000082 = some .arSkipm ∧
    decodeTableWord 32 0x00000083 = some .arEntry ∧
    decodeTableWord 32 0x00000084 = some .arPbyte ∧
    decodeTableWord 32 0x00000085 = some .arFilehdr ∧
    decodeTableWord 32 0x00000086 = some .arSym ∧
    decodeTableWord 32 0x00000087 = some .arEnd ∧
    decodeTableWord 32 0x0000008F = some .frAbort := by decide

/-- V-E6 to V-E13: the words no command has, and the symbols out of range. -/
theorem test_decode_rejects :
    decode 0x00000002#32 = .error (.illegalCmd 0x00000002#32) ∧ decode 0x01000021#32 = .error (.illegalCmd 0x01000021#32) ∧
    decode 0x00020121#32 = .error (.illegalCmd 0x00020121#32) ∧ decode 0x00010121#32 = .error (.symbolRange 257#9) ∧
    decode 0x0001FF22#32 = .error (.symbolRange 511#9) ∧ decode 0x00012C52#32 = .error (.symbolRange 300#9) ∧
    decode 0x00000218#32 = .error (.illegalCmd 0x00000218#32) ∧
    decode 0x00000170#32 = .error (.illegalCmd 0x00000170#32) := by decide

/-- V-E6, V-E10, V-E11: the outcomes. -/
theorem test_rejected_words_report :
    seen regs 0x00000002 State.reset = some (0x0002, 0x00000002, 0x01) ∧
    seen regs 0x0001FF22 State.reset = some (0x0002, 0x1FF, 0x03) ∧
    seen regs 0x00012C52 State.reset = some (0x0002, 0x12C, 0x03) := by decide +kernel

/-- R77's examples and a pseudo-command of R78. -/
theorem test_assembler :
    assembleLine "AW_PBYTE 'a'" = some [0x00006171#32] ∧ assembleLine "LEN_SET 0x41, 1 ; c" = some [0x00024143#32] ∧
    assembleLine "FREQ_INC SENT" = some [0x00010021#32] ∧
    assembleLine "MKCODE" = some [0x30#32, 0x40#32, 0x41#32, 0x50#32] := by decide +kernel

/-- Log entry 20: tabs are white space as blanks are. -/
theorem test_assembler_tabs :
    assembleLine "\tAW_PATH\t\"d\"\t; c" = some [0x00006471#32, 0x00000072#32] ∧
    assembleLine "\tENC_BYTE\t'a'" = some [0x00006153#32] := by decide +kernel

/-! ## One step of each command -/

/-- R41, R270: the registers at reset. -/
theorem test_reset_registers :
    shown State.reset = (0, 0, 0x10000000) := by decide +kernel

/-- V-K1: `NOP` clears the flags and keeps `RESULT`. -/
theorem test_nop :
    seen regs 0x00000000 { State.reset with err := true, errcode := .illegalCmd, result := 2#32 } = some (0, 2, 0) := by decide +kernel

/-- V-K2, V-K3: `SRST` clears the counters, the phase and IN, and keeps OUT. -/
theorem test_srst :
    seen (fun t => (regs t, entry t.freq 5, t.inq, t.eos, t.out)) 0x00000001
      { withIn [1#8] with fph := .fatal, freq := setEntry freqZero 5 1, out := [9#8] } =
      some ((0, 0, 0), 0, [], false, [9#8]) := by decide +kernel

/-- V-B4: `BR_OPEN` drops the bits left. -/
theorem test_brOpen :
    seen shown 0x00000010 (reading 0xA5#8 5) = some (0, 0, 0x00000000) := by decide +kernel

/-- P6 word 3. -/
theorem test_brGet_first_bit_of_a_byte :
    seen shown 0x00000011 { withIn [0xA5#8] with br := ⟨0#8, 0, false⟩ } = some (1, 0x0000, 0x07A50000) := by decide +kernel

/-- P6 words 1 and 15: `END` from a closed reader and from one whose byte is used up. -/
theorem test_brGet_end :
    seen shown 0x00000011 State.reset = some (2, 0x0008, 0x10000000) ∧
    seen shown 0x00000011 (reading 0xA5#8 0) = some (2, 0x0008, 0x00A50000) := by decide +kernel

/-- V-B5. -/
theorem test_brClose :
    seen shown 0x00000012 (reading 0xA5#8 5) = some (0, 0, 0x10000000) := by decide +kernel

/-- V-B7: the third bit. -/
theorem test_bwPut_partial :
    seen shown 0x00000118 { State.reset with bw := [true, false] } = some (0, 0, 0x10000305) := by decide +kernel

/-- V-B6: the eighth bit writes the byte. -/
theorem test_bwPut_eighth :
    seen (fun t => (t.out, shown t)) 0x00000018
      { State.reset with bw := [true, true, true, true, false, false, false] } = some ([0xF0#8], 0, 0, 0x10000000) := by decide +kernel

/-- V-B8, V-B9: a partial byte is padded, an empty one writes nothing. -/
theorem test_bwClose :
    seen State.out 0x00000019 { State.reset with bw := [true, false, true] } = some [0xA0#8] ∧
    seen State.out 0x00000019 State.reset = some [] := by decide +kernel

/-- V-F4. -/
theorem test_freqClr :
    seen (fun t => entry t.freq 7) 0x00000020 { State.reset with freq := setEntry freqZero 7 1 } = some 0 := by decide +kernel

/-- V-F2, V-F5. -/
theorem test_freqInc :
    seen (fun t => entry t.freq 0x41) 0x00004121 { State.reset with freq := setEntry freqZero 0x41 1 } = some 2 ∧
    seen (fun t => entry t.freq 256) 0x00010021 State.reset = some 1 := by decide +kernel

/-- V-F3, V-F6: a counter at its maximum keeps its value. -/
theorem test_freqInc_overflow :
    seen (fun t => (regs t, entry t.freq 9)) 0x00000921
      { State.reset with freq := setEntry freqZero 9 (2 ^ 31 - 1) } = some ((0x0002, 9, 0x04), 2 ^ 31 - 1) := by decide +kernel

/-- V-F2. -/
theorem test_freqGet :
    seen regs 0x00004122 { State.reset with freq := freqB } = some (0, 2, 0) := by decide +kernel

/-- V-T2. -/
theorem test_treeBuild :
    seen State.tree 0x00000030 { State.reset with freq := setEntry freqB 256 1 } = some (some greedyB) := by decide +kernel

/-- V-T9: a padding leaf comes first, its weight being 0. -/
theorem test_treeBuild_padding :
    seen State.tree 0x00000030 { State.reset with freq := setEntry freqZero 0 3 } =
      some (some (.node (.leaf 1) (.leaf 0))) := by decide +kernel

/-- V-L2. -/
theorem test_lenFromTree :
    seen (fun t => t.len.toList) 0x00000040 { State.reset with tree := some greedyB } = some lensB := by decide +kernel

/-- V-L6. -/
theorem test_lenFromTree_no_tree :
    seen regs 0x00000040 State.reset = some (0x0002, 0, 0x05) := by decide +kernel

/-- V-L7. -/
theorem test_treeFromLen :
    seen State.tree 0x00000041 { State.reset with len := lenB } = some (some treeB) := by decide +kernel

/-- V-L13. -/
theorem test_treeFromLen_non_canonical :
    seen regs 0x00000041 { State.reset with len := Vector.replicate 257 1#8 } = some (0x0002, 0, 0x09) := by decide +kernel

/-- V-L24. -/
theorem test_lenGet :
    seen regs 0x00004142 { State.reset with len := lenB } = some (0, 1, 0) := by decide +kernel

/-- V-L24, V-L25. -/
theorem test_lenSet :
    seen (fun t => entry t.len 0x41) 0x00024143 State.reset = some 1#8 ∧
    seen (fun t => entry t.len 256) 0x00030043 State.reset = some 1#8 := by decide +kernel

/-- V-L16. -/
theorem test_lenClr :
    seen (fun t => t.len.toList) 0x00000044 { State.reset with len := lenB } = some (List.replicate 257 0#8) := by decide +kernel

/-- V-L21. -/
theorem test_lenEmit :
    seen State.out 0x00000045 { State.reset with len := lenB } =
      some lensB := by decide +kernel

/-- V-L22. -/
theorem test_lenLoad :
    seen (fun t => (t.len.toList, t.inq)) 0x00000046
      (withIn lensB) = some (lensB, []) := by decide +kernel

/-- V-L23. -/
theorem test_lenLoad_short :
    seen (fun t => (regs t, entry t.len 0)) 0x00000046 (withIn [1#8, 2#8, 3#8]) = some ((0x000A, 3, 0x0A), 0x00#8) := by decide +kernel

/-- V-C1. -/
theorem test_codeGen :
    seen (fun t => t.code.map Vector.toList) 0x00000050 { State.reset with tree := some treeB } = some (some codesB) := by decide +kernel

/-- V-C22. -/
theorem test_codeGen_no_tree :
    seen regs 0x00000050 State.reset = some (0x0002, 0, 0x05) := by decide +kernel

/-- V-C16, V-C17, V-C21. -/
theorem test_codeLen :
    seen regs 0x00004251 stateB = some (0x0060, 2, 0) ∧ seen regs 0x00004351 stateB = some (0x0060, 0, 0) ∧
    seen regs 0x00000051 State.reset = some (0x0002, 0, 0x06) := by decide +kernel

/-- V-C18, V-C19, V-C20. -/
theorem test_codeBit :
    seen regs 0x00030052 stateB = some (0x0060, 1, 0) ∧ seen regs 0x00050052 stateB = some (0x0062, 2, 0x07) ∧
    seen regs 0x00004352 stateB = some (0x0062, 0x43, 0x06) := by decide +kernel

/-- V-C26: the code goes out first bit first. -/
theorem test_encSym :
    seen shown 0x00004253 { stateB with bw := [true, true] } = some (0, 0x0060, 0x1000040C) := by decide +kernel

/-- V-C23. -/
theorem test_encSym_no_code :
    seen (fun t => (regs t, t.out, t.bw)) 0x00000353 State.reset = some ((0x0002, 3, 0x06), [], []) := by decide +kernel

/-- V-C27. -/
theorem test_encEnd :
    seen (fun t => (t.out, t.bw)) 0x00000054 { stateB with bw := [true, true, false, false] } = some ([0xC4#8], []) := by decide +kernel

/-- P2 words 4 and 7: the code of a byte, and the sentinel. -/
theorem test_decSym :
    seen shown 0x00000060 { stateB with code := none, br := ⟨0#8, 0, false⟩, inq := [0xC4#8] } =
      some (0x41, 0x0020, 0x07C40000) ∧
    seen shown 0x00000060 { stateB with code := none, br := ⟨0xC4#8, 4, false⟩ } = some (0x100, 0x0030, 0x02C40000) := by decide +kernel

/-- V-D2, V-D6: the stream ends before a leaf; no tree. -/
theorem test_decSym_errors :
    seen regs 0x00000060 { stateB with code := none } = some (0x002A, 0x200, 0x0A) ∧
    seen regs 0x00000060 State.reset = some (0x0002, 0, 0x05) := by decide +kernel

/-- V-W7. -/
theorem test_awBegin :
    seen (fun t => (t.out, regs t)) 0x00000070 State.reset = some ([0x48#8, 0x46#8], 0x1000, 0, 0) := by decide +kernel

/-- V-W8, V-X2. -/
theorem test_awPbyte :
    seen (fun t => (t.out, regs t)) 0x00006471 (inPh .wManifest) = some ([0x64#8], 0x2000, 0, 0) ∧
    seen (fun t => (t.out, regs t)) 0x0000FF71 (inPh .wManifest) = some ([], 0x1002, 0xFF, 0x0D) := by decide +kernel

/-- V-W9, V-W13. -/
theorem test_awPend :
    seen (fun t => (t.out, regs t)) 0x00000072 (inPh .wMpath) = some ([0x00#8], 0x1000, 0, 0) ∧
    seen (fun t => (t.out, regs t)) 0x00000072 (inPh .wFpath) = some ([0x00#8], 0x6000, 0, 0) := by decide +kernel

/-- V-W10. -/
theorem test_awMend :
    seen (fun t => (t.out, regs t)) 0x00000073 (inPh .wManifest) = some ([0xFF#8], 0x3000, 0, 0) := by decide +kernel

/-- V-W11. -/
theorem test_awDir :
    seen (fun t => (t.out, regs t)) 0x00000074 (inPh .wBlocks) = some ([0x44#8], 0x4000, 0, 0) := by decide +kernel

/-- V-W12. -/
theorem test_awFile :
    seen (fun t => (t.out, regs t, entry t.freq 7)) 0x00000075 { inPh .wBlocks with freq := setEntry freqZero 7 3 } =
      some ([0x46#8], (0x5000, 0, 0), 0) := by decide +kernel

/-- V-W14, V-X20. -/
theorem test_awCount :
    seen (fun t => (t.out, entry t.freq 0x41)) 0x00004176 { inPh .wFcount with freq := setEntry freqZero 0x41 1 } =
      some ([], 2) ∧
    seen regs 0x00004176 (inPh .wPayload) = some (0x7002, 7, 0x02) := by decide +kernel

/-- V-W15: a fresh BitWriter, and the codes of the rebuilt tree, not of the greedy one (V-C2). -/
theorem test_awFilehdr :
    seen (fun t => (t.bw, t.code.map Vector.toList)) 0x00000077 { inPh .wFcount with freq := freqB, bw := [true] } =
      some ([], some codesB) := by decide +kernel

/-- V-W16; and in V-X4's start state, an empty file's payload with the codes 0:`0` and S:`1`, R201 on the byte 0x00,
which has a code (log entry 24). -/
theorem test_awSym :
    seen shown 0x00004178 { stateB with fph := .wPayload, bw := [true] } = some (0, 0x7060, 0x10000203) ∧
    seen shown 0x00000078 { inPh .wPayload with
      tree := some (.node (.leaf 0) (.leaf 256)), code := some (codesOf (.node (.leaf 0) (.leaf 256))) } =
      some (0, 0x7060, 0x10000100) := by decide +kernel

/-- V-X4. -/
theorem test_awSym_no_code :
    seen regs 0x00004378 { stateB with fph := .wPayload } = some (0xF066, 0x43, 0x06) := by decide +kernel

/-- V-W17. -/
theorem test_awFend :
    seen (fun t => (t.out, t.bw, t.fph)) 0x00000079
      { stateB with fph := .wPayload, bw := [true, true, false, false] } = some ([0xC4#8], [], .wBlocks) := by decide +kernel

/-- V-W18, V-X5. -/
theorem test_awEnd :
    seen (fun t => (t.out, regs t)) 0x0000007A (inPh .wBlocks) = some ([], 0, 0, 0) ∧
    seen regs 0x0000007A (inPh .fatal) = some (0xF006, 0xF, 0x02) := by decide +kernel

/-- V-X7, V-X8, and P3 word 9. -/
theorem test_arMagic :
    seen regs 0x00000080 (withIn [0x48#8, 0x47#8]) = some (0xF006, 0x4748, 0x0B) ∧
    seen regs 0x00000080 (withIn [0x48#8]) = some (0xF00E, 0x200, 0x0B) ∧
    seen regs 0x00000080 (withIn [0x48#8, 0x46#8]) = some (0x8000, 0, 0) := by decide +kernel

/-- V-R2, V-R3. -/
theorem test_arMbyte :
    seen regs 0x00000081 { withIn [0x72#8] with fph := .rManifest } = some (0x8000, 0x72, 0) ∧
    seen regs 0x00000081 { withIn [0x00#8] with fph := .rManifest } = some (0x8000, 0x100, 0) ∧
    seen regs 0x00000081 { withIn [0xFF#8] with fph := .rManifest } = some (0x9000, 0x101, 0) := by decide +kernel

/-- V-R8, V-X10. -/
theorem test_arSkipm :
    seen (fun t => (t.inq, t.fph)) 0x00000082 { withIn [0x64#8, 0x00#8, 0xFF#8, 0x44#8] with fph := .rManifest } =
      some ([0x44#8], .rEntry) ∧
    seen regs 0x00000082 { withIn [0x61#8] with fph := .rManifest } = some (0xF00E, 0x200, 0x0A) := by decide +kernel

/-- P3 words 11 and 14, and V-X12. -/
theorem test_arEntry :
    seen regs 0x00000083 { withIn [0x44#8] with fph := .rEntry } = some (0xA000, 1, 0) ∧
    seen regs 0x00000083 { withIn [] with fph := .rEntry } = some (0xE008, 0, 0) ∧
    seen regs 0x00000083 { withIn [0x51#8] with fph := .rEntry } = some (0xF006, 0x51, 0x0C) := by decide +kernel

/-- P4 words 7 and 10, and V-X11. -/
theorem test_arPbyte :
    seen regs 0x00000084 { withIn [0x72#8] with fph := .rFpath } = some (0xB000, 0x72, 0) ∧
    seen regs 0x00000084 { withIn [0x00#8] with fph := .rFpath } = some (0xC000, 0x100, 0) ∧
    seen regs 0x00000084 { withIn [] with fph := .rDpath } = some (0xF00E, 0x200, 0x0A) := by decide +kernel

/-- V-R4. -/
theorem test_arFilehdr :
    seen (fun t => (shown t, t.tree, t.inq)) 0x00000085 { withIn (lensB ++ [0xC4#8]) with fph := .rLens } =
      some ((0, 0xD020, 0x00000000), some treeB, [0xC4#8]) := by decide +kernel

/-- V-X13: 92 table bytes. -/
theorem test_arFilehdr_short :
    seen (fun t => (regs t, entry t.len 0)) 0x00000085 { withIn (List.replicate 92 0x00#8) with fph := .rLens } =
      some ((0x900A, 92, 0x0A), 0x00#8) := by decide +kernel

/-- V-R5: the last two symbols. -/
theorem test_arSym :
    seen shown 0x00000086 { stateB with code := none, fph := .rPayload, br := ⟨0xC4#8, 6, false⟩ } =
      some (0x42, 0xD020, 0x04C40000) ∧
    seen shown 0x00000086 { stateB with code := none, fph := .rPayload, br := ⟨0xC4#8, 4, false⟩ } =
      some (0x100, 0x9030, 0x10000000) := by decide +kernel

/-- V-X15. -/
theorem test_arSym_truncated :
    seen shown 0x00000086 { stateB with code := none, fph := .rPayload, br := ⟨0#8, 0, false⟩, eos := true } =
      some (0x200, 0x902A, 0x10000000) := by decide +kernel

/-- V-R3. -/
theorem test_arEnd :
    seen (fun t => (regs t, t.inq, t.eos)) 0x00000087 { withIn [0x44#8] with fph := .rEntry, result := 0x101#32 } =
      some ((0, 0x101, 0), [], false) := by decide +kernel

/-- V-X6, V-X19. -/
theorem test_frAbort :
    seen (fun t => (regs t, t.bw, t.inq, t.eos)) 0x0000008F
      { stateB with fph := .fatal, err := true, bw := [true], inq := [1#8], eos := true } = some ((0x0060, 0, 0), [], [], false) := by decide +kernel

/-- V-B11: `BR_GET` waits for a byte. -/
theorem test_hold :
    seen (fun t => (t.busy, t.cmdq)) 0x00000011 { State.reset with br := ⟨0#8, 0, false⟩ } = some (true, [0x11#32]) := by decide +kernel

/-! ## Whole archives (V-W1, V-S8) -/

theorem test_archive_of_an_empty_directory :
    archiveOf Config.reference (dfsOrder (.dir [0x64#8] [])) =
      some [0x48#8, 0x46#8, 0x64#8, 0x00#8, 0xFF#8, 0x44#8, 0x64#8, 0x00#8] := by decide +kernel

theorem test_payload_of_scenario_B : payload codeB [0x41#8, 0x41#8, 0x42#8] = [0xC4#8] := by decide +kernel
/-! ## Witnesses: concrete states that meet the hypotheses of the obligations, clause by clause -/

/-- The reset state with one word at the port. -/
def waiting (w : Word) : State := { State.reset with cmdq := [w], busy := true }

/-- A reader that needs a byte that has not come. -/
def starved : State := { State.reset with br := ⟨0#8, 0, false⟩ }

/-- A tree whose deepest leaves are as deep as `xs` is long. -/
def comb : List Symbol → Symbol → CodeTree
  | [], z => .leaf z
  | x :: xs, z => .node (.leaf x) (comb xs z)

/-- Depth 255, the deepest that is no overflow. -/
def deepest : CodeTree := comb (allSymbols.take 255) 255

/-- Depth 256: the symbols 255 and 256 are too deep. -/
def tooDeepTree : CodeTree := comb (allSymbols.take 256) 256

/-- A directory and a file of one byte. -/
def twoEntries : List ArchiveEntry := [⟨[0x64#8], none⟩, ⟨[0x64#8, 0x2F#8, 0x61#8], some [0x41#8]⟩]

theorem codeB_entries : ∀ a : Symbol, entry codeB a = if a = 0x41 then some [true] else
    if a = 0x42 then some [false, false] else if a = 256 then some [false, true] else none := by decide +kernel

theorem codeB_ok : CodeTable.Ok codeB := by
  constructor
  · intro a x h
    rw [codeB_entries] at h
    split at h
    · injection h with h; subst h; decide
    · split at h
      · injection h with h; subst h; decide
      · split at h
        · injection h with h; subst h; decide
        · injection h
  · intro a b x y hab hx hy
    rw [codeB_entries] at hx hy
    split at hx <;> [skip; (split at hx <;> [skip; (split at hx <;> [skip; (injection hx)])])] <;>
      split at hy <;> [skip; (split at hy <;> [skip; (split at hy <;> [skip; (injection hy)])]); skip;
        (split at hy <;> [skip; (split at hy <;> [skip; (injection hy)])]); skip;
        (split at hy <;> [skip; (split at hy <;> [skip; (injection hy)])])] <;>
      (injection hx with hx; injection hy with hy; subst hx; subst hy) <;> first | (subst_vars; exact absurd rfl hab) | decide

/-- A safe state that no reset leaves: in the middle of a payload, a command held, both bit wrappers full. -/
def midPayload : State :=
  { stateB with
    fph := .wPayload, bw := [true, false, true, true, false, true, true], br := ⟨0xFF#8, 8, false⟩
    cmdq := [encode .brGet], busy := true, out := [0x48#8] }

theorem midPayload_inv : midPayload.Inv where
  cfgValid := by decide
  freqBounded := by intro a; simp [midPayload, stateB, State.reset, State.resetWith, entry]
  treeOk := by
    intro t h
    injection h with h; subst h; decide
  codeOk := by
    intro c h
    injection h with h; subst h; exact codeB_ok
  bwShort := by decide
  remBounded := by decide
  closedEmpty := by decide
  payloadTree := by decide
  payloadCode := by decide
  busyWithWord := by decide

theorem witness_DecodeOfEncodeIsTheCommand :
    (Instr.lenSet 256#9 0xFF#8).wellFormed = true ∧ (Instr.awPbyte 0xFF#8).wellFormed = true := by decide

theorem witness_DecodedWordIsTheEncoding : decode 0x00010021#32 = .ok (.freqInc 256#9) := by decide

theorem witness_EveryWordRunsOrOnlyReports_row : (⟨0x21#8, "FREQ_INC", .s⟩ : OpRow) ∈ opcodeMap :=
  List.mem_of_getElem? (i := 8) rfl

theorem witness_EveryWordRunsOrOnlyReports :
    (0x00010121#32 &&& OpClass.s.mask = 0x21#32 ∧ 256 < (BitVec.extractLsb' 8 9 0x00010121#32).toNat) ∧
    (0x00010021#32 &&& OpClass.s.mask = 0x21#32 ∧ (BitVec.extractLsb' 8 9 0x00010021#32).toNat ≤ 256) ∧
    ∀ row ∈ opcodeMap, 0x00000002#32 &&& row.opClass.mask ≠ row.op.setWidth 32 := by decide

theorem witness_StepRunsTheDecodedCommand_completes :
    (waiting 0#32).cmdq = 0#32 :: [] ∧ decode 0#32 = .ok .nop ∧ (waiting 0#32).schedule = [] ∧
    ∃ t, exec .nop (waiting 0#32) = .next t ∧ t.busy = false := ⟨rfl, rfl, rfl, _, rfl, rfl⟩

theorem witness_StepRunsTheDecodedCommand_holds :
    decode 0x11#32 = .ok .brGet ∧ ∃ s : State, s.cmdq = [0x11#32] ∧ s.schedule = .core :: [] ∧
    ∃ t, exec .brGet { s with schedule := [] } = .next t ∧ t.busy = true :=
  ⟨rfl, { starved with cmdq := [0x11#32], schedule := [.core] }, rfl, rfl, _, rfl, rfl⟩

theorem witness_StepRunsTheDecodedCommand_faults :
    decode 0x86#32 = .ok .arSym ∧
    exec .arSym { inPh .rPayload with cmdq := [0x86#32] } = .fault .payloadWithoutTree := ⟨rfl, rfl⟩

theorem witness_StepReportsRejectedWordsAndWaits :
    (waiting 0x02#32).cmdq = 0x02#32 :: [] ∧ (waiting 0x02#32).schedule = [] ∧
    decode 0x02#32 = .error (.illegalCmd 0x02#32) ∧ decode 0x00010121#32 = .error (.symbolRange 257#9) ∧
    { State.reset with schedule := [.core] }.schedule = .core :: [] ∧ State.reset.cmdq = [] := by decide

theorem witness_HoldingCommandChangesOnlyBusy : ∃ t, exec .brGet starved = .next t ∧ t.busy = true := ⟨_, rfl, rfl⟩

theorem witness_CommandsHoldOnlyForInput : ∃ t, exec .arMagic State.reset = .next t ∧ t.busy = true := ⟨_, rfl, rfl⟩

theorem witness_CommandsKeepStreamOrder :
    (∃ t, exec .arMagic (withIn [0x48#8, 0x46#8]) = .next t ∧ t.inq = []) ∧
    ∃ t, exec .frAbort (withIn [0x48#8]) = .next t ∧ t.eos = false := ⟨⟨_, rfl, rfl⟩, _, rfl, rfl⟩

theorem witness_FailedCommandsLeaveTables :
    ∃ t, exec .lenFromTree State.reset = .next t ∧ t.busy = false ∧ t.err = true := ⟨_, rfl, rfl, rfl⟩

theorem witness_ErrAndErrcodeAgree :
    ∃ t, exec .freqClr State.reset = .next t ∧ t.busy = false ∧ t.err = false := ⟨_, rfl, rfl, rfl⟩

theorem witness_WrongPhaseRaisesSequence :
    phasesOf .arEnd = some [.rEntry, .rDone] ∧ State.reset.fph ∉ [Phase.rEntry, .rDone] := ⟨rfl, by decide⟩

theorem witness_PhasesMoveAlongTheTables :
    ∃ t, exec .awBegin State.reset = .next t ∧ t.fph = .wManifest := ⟨_, rfl, rfl⟩

theorem witness_FatalIsLeftOnlyByAbortOrReset :
    (∃ t, step { inPh .fatal with cmdq := [0x8F#32] } = .next t ∧ t.fph ≠ .fatal) ∧
    (∃ t, step { inPh .fatal with cmdq := [0x01#32] } = .next t ∧ t.fph ≠ .fatal) ∧
    ∃ t, step { inPh .fatal with schedule := [.host .hardReset] } = .next t ∧ t.fph ≠ .fatal :=
  ⟨⟨_, rfl, by decide⟩, ⟨_, rfl, by decide⟩, _, rfl, by decide⟩

theorem witness_ResetStateIsSafe :
    Config.reference.Valid ∧ (Config.mk 1 0 0 0 1 1 1 1 0).Valid ∧ (Config.mk 32 0 0 0 1 1 1 1 0).Valid := by decide

theorem witness_EveryStepKeepsTheInvariant : midPayload.Inv ∧ ∃ t, step midPayload = .next t :=
  ⟨midPayload_inv, _, rfl⟩

theorem witness_SafeStatesStepOn :
    midPayload.Inv ∧ nextMoveAllowed midPayload = true := ⟨midPayload_inv, by decide⟩

theorem witness_SafeStatesStepOn_moves :
    nextMoveAllowed { State.reset with schedule := [.host (.write 32 0x3C 0#32)] } = true ∧
    nextMoveAllowed { State.reset with schedule := [.host .setEos] } = true := by decide

theorem witness_EveryCommandAnswers : midPayload.Inv ∧ (withIn []).eos = true := ⟨midPayload_inv, rfl⟩

theorem witness_RegisterWindowReadsItsFields :
    midPayload.bw.length ≤ 7 ∧ midPayload.br.rem ≤ 8 ∧ midPayload.cfg.Valid ∧ 0x20 ≤ 0x3C ∧ 0x3C < 0x40 := by decide

theorem witness_HostAccessesFollowTheWindow :
    (¬ (16 = 32 ∧ 0 % 4 = 0 ∧ 0 < 64)) ∧ (¬ (32 = 32 ∧ 62 % 4 = 0 ∧ 62 < 64)) ∧
    (¬ (32 = 32 ∧ 64 % 4 = 0 ∧ 64 < 64)) ∧ 60 % 4 = 0 ∧ 60 < 64 ∧ 60 ≠ 0 := by decide

theorem witness_CommandWordsKeepTheirOrder :
    { State.reset with schedule := [.host (.write 32 0 1#32), .host (.write 32 0 2#32), .core] }.schedule =
      [1#32, 2#32].map (fun w => Move.host (.write 32 0 w)) ++ [.core] := rfl

theorem witness_StreamPortsFollowTheRules :
    State.reset.eos = false ∧ (withIn []).eos = true ∧ midPayload.out = 0x48#8 :: [] ∧ State.reset.out = [] := by decide

theorem witness_EmittedBytesKeepTheirOrder :
    (∃ t, step { midPayload with schedule := [.host .drain] } = .next t) ∧
    ∀ rest, { midPayload with schedule := [.host .drain] }.schedule ≠ .host .hardReset :: rest :=
  ⟨⟨_, rfl⟩, fun _ h => by injection h with h; injection h with h; injection h⟩

theorem witness_HardResetGivesTheResetState :
    { midPayload with schedule := [.host .hardReset, .core] }.schedule = .host .hardReset :: [.core] := rfl

theorem witness_BitReaderCommands :
    State.reset.br.closed = true ∧ (reading 0xA5#8 1).br.closed = false ∧ (reading 0xA5#8 1).br.rem ≠ 0 ∧
    (reading 0xA5#8 8).br.rem ≠ 0 ∧ ({ starved with inq := [0xA5#8] }.br.rem = 0) ∧
    ({ starved with eos := true }.inq = []) ∧ (starved.br.closed = false ∧ starved.br.rem = 0 ∧ starved.inq = [] ∧
    starved.eos = false) := by decide

theorem witness_BitWriterCommands :
    { State.reset with bw := [true, true, true, true, true, true] }.bw.length < 7 ∧ midPayload.bw.length = 7 ∧
    State.reset.bw = [] ∧ 0 < { State.reset with bw := [true] }.bw.length := by decide

theorem witness_ClosedBitsFillWholeBytes : State.reset.bw = [] := rfl

theorem witness_FrequencyCommands :
    256 < (257#9).toNat ∧ (256 : Symbol).val = (256#9).toNat ∧
    entry { State.reset with freq := setEntry freqZero 256 (2 ^ 31 - 1) }.freq 256 = State.reset.cfg.cntMax ∧
    entry { State.reset with freq := setEntry freqZero 256 (2 ^ 31 - 2) }.freq 256 ≠ State.reset.cfg.cntMax := by
  decide +kernel

/-- With `CNT_W = 1` a byte may occur once, not twice. -/
theorem witness_CountingPassConservesFrequency :
    (Config.mk 1 0 0 0 1 1 1 1 0).Valid ∧ ([0x41#8].count 0x41#8 ≤ 1) ∧ ¬ ([0x41#8, 0x41#8].count 0x41#8 ≤ 1) ∧
    (runClean (countingPass [0x41#8]) State.reset).isSome = true := by decide +kernel

theorem witness_CounterReads : 256 < (511#9).toNat ∧ (256 : Symbol).val = (256#9).toNat := by decide

theorem witness_TreeBuildPairsGreedily : ∃ u, Greedy 0 (initialEntries State.reset.freq) u := by
  have h : initialEntries State.reset.freq = [⟨0, 0, .leaf 0⟩, ⟨0, 1, .leaf 1⟩] := by decide +kernel
  rw [h]
  exact ⟨_, .pair (List.Perm.refl _) (by decide) (by decide) (.one _ _)⟩

theorem deepest_nodup : deepest.labels.Nodup := by
  have h : deepest.labels = allSymbols.take 256 := by decide +kernel
  rw [h]
  exact (List.nodup_finRange 257).sublist (List.take_sublist 256 allSymbols)

theorem tooDeepTree_nodup : tooDeepTree.labels.Nodup := by
  have h : tooDeepTree.labels = allSymbols := by decide +kernel
  rw [h]
  exact List.nodup_finRange 257

theorem witness_LenFromTreeWritesDepths :
    State.reset.tree = none ∧ deepest.Ok ∧ (∀ p ∈ deepest.depths 0, p.2 ≤ 255) :=
  ⟨rfl, ⟨rfl, deepest_nodup⟩, by decide +kernel⟩

theorem witness_LenFromTreeWritesDepths_overflow :
    tooDeepTree.Ok ∧ ((255 : Symbol), 256) ∈ tooDeepTree.depths 0 ∧
    ∀ q ∈ tooDeepTree.depths 0, 255 < q.2 → (255 : Symbol) ≤ q.1 :=
  ⟨⟨rfl, tooDeepTree_nodup⟩, by decide +kernel, by decide +kernel⟩

theorem witness_TreeFromLenSucceedsExactlyOnKraft :
    kraftSum stateB.len = 1 ∧ kraftSum State.reset.len ≠ 1 := by decide +kernel

theorem witness_TreeFromLenSucceedsExactlyOnKraft_full_tree :
    treeB.Ok ∧ (∀ p ∈ treeB.depths 0, (entry stateB.len p.1).toNat = p.2) ∧
    ∀ a, a ∉ treeB.labels → entry stateB.len a = 0x00#8 := by decide +kernel

theorem witness_ReconstructedDepthsAreTheLengths :
    recon lenB = some treeB ∧ stateB.len = lenB ∧ stateB.tree = some treeB := ⟨by decide +kernel, rfl, rfl⟩

theorem witness_LengthTableCommands : 256 < (257#9).toNat ∧ (256 : Symbol).val = (256#9).toNat := by decide

theorem witness_LenLoadReadsTheTable :
    (lensB.length = 257 ∧ (withIn (lensB ++ [0xC4#8])).inq = lensB ++ [0xC4#8]) ∧
    (withIn (List.replicate 256 0#8)).inq.length < 257 ∧ (withIn (List.replicate 256 0#8)).eos = true ∧
    State.reset.inq.length < 257 ∧ State.reset.eos = false := by decide +kernel

theorem witness_CodeGenGivesThePaths :
    State.reset.tree = none ∧ deepest.Ok ∧ ∀ p ∈ deepest.paths [], p.2.length ≤ 255 :=
  ⟨rfl, ⟨rfl, deepest_nodup⟩, by decide +kernel⟩

theorem witness_CodeGenGivesThePaths_overflow :
    tooDeepTree.Ok ∧ (∃ p ∈ tooDeepTree.paths [], 255 < p.2.length ∧ p.1 = 255) ∧
    ∀ q ∈ tooDeepTree.paths [], 255 < q.2.length → (255 : Symbol) ≤ q.1 :=
  ⟨⟨rfl, tooDeepTree_nodup⟩, by decide +kernel, by decide +kernel⟩

theorem witness_CodeInspectionCommands :
    256 < (257#9).toNat ∧ State.reset.code = none ∧ stateB.code = some codeB ∧ entry codeB 0x43 = none ∧
    entry codeB 256 = some [false, true] ∧ [false, true].length ≤ (2#8).toNat ∧
    [false, true][(1#8).toNat]? = some true := by
  refine ⟨by decide, rfl, rfl, ?_, ?_, by decide, rfl⟩ <;> rw [codeB_entries] <;> decide

theorem witness_EncoderCommands :
    midPayload.code = some codeB ∧ midPayload.bw.length ≤ 7 ∧ entry codeB 0x41 = some [true] ∧
    entry codeB 0x43 = none ∧ entry codeB sentinel = some [false, true] := by
  refine ⟨rfl, by decide, ?_, ?_, ?_⟩ <;> rw [codeB_entries] <;> decide

/-- V-C29: a table with no code for the sentinel. -/
theorem witness_EncoderCommands_no_sentinel : entry (codesOf (.node (.leaf 0) (.leaf 1))) sentinel = none := by
  decide +kernel

theorem witness_EncodingPassWritesThePayload :
    stateB.code = some codeB ∧ CodeTable.Ok codeB ∧ stateB.bw = [] ∧
    (∀ b ∈ [0x41#8, 0x42#8], (entry codeB (byteSymbol b)).isSome = true) ∧
    (entry codeB sentinel).isSome = true := by
  refine ⟨rfl, codeB_ok, rfl, fun b hb => ?_, ?_⟩ <;> rw [codeB_entries]
  · revert b; decide
  · decide

/-- The paths of `treeB`. -/
theorem treeB_paths : treeB.paths [] = [(0x42, [false, false]), (256, [false, true]), (0x41, [true])] := by decide

theorem witness_DecSymWalksTheTree :
    State.reset.tree = none ∧ treeB.isNode = true ∧ stateB.br.closed = true ∧
    (reading 0x80#8 8).br.rem ≤ 8 ∧ ((0x41 : Symbol), [true]) ∈ treeB.paths [] ∧
    (reading 0x80#8 8).bitsAhead = [true] ++ [false, false, false, false, false, false, false] ∧
    (reading 0x00#8 1).eos = true ∧ (∀ q ∈ treeB.paths [], ¬ q.2 <+: (reading 0x00#8 1).bitsAhead) ∧
    starved.eos = false ∧ ∀ q ∈ treeB.paths [], ¬ q.2 <+: starved.bitsAhead := by decide

theorem witness_DecodeLoopInvertsThePayload :
    recon lenB = some treeB ∧ (∀ b ∈ [0x41#8, 0x41#8, 0x42#8], byteSymbol b ∈ treeB.labels) ∧ sentinel ∈ treeB.labels ∧
    ∃ s : State, s.tree = some treeB ∧ s.br = ⟨0x00#8, 0, false⟩ ∧
      s.inq = payload (codesOf treeB) [0x41#8, 0x41#8, 0x42#8] ++ [0x46#8] :=
  ⟨witness_ReconstructedDepthsAreTheLengths.1, by decide, by decide,
    { stateB with br := ⟨0x00#8, 0, false⟩, inq := payload (codesOf treeB) [0x41#8, 0x41#8, 0x42#8] ++ [0x46#8] },
    rfl, rfl, rfl⟩

theorem witness_WriterFixedFields :
    State.reset.fph = .idle ∧ (inPh .wManifest).fph = .wManifest ∧ (inPh .wBlocks).fph = .wBlocks ∧
    (inPh .fatal).fph ≠ .idle ∧ (inPh .fatal).fph ≠ .wManifest ∧ (inPh .fatal).fph ≠ .wBlocks := by decide

theorem witness_WriterPaths :
    (inPh .wFpath).fph ∈ [Phase.wManifest, .wMpath, .wDpath, .wFpath] ∧
    (0xFF#8 = 0x00#8 ∨ 0xFF#8 = State.reset.cfg.mend) ∧ 0xFE#8 ≠ 0x00#8 ∧ 0xFE#8 ≠ State.reset.cfg.mend ∧
    (inPh .wDpath).fph = .wDpath ∧ (inPh .wMpath).fph = .wMpath ∧
    State.reset.fph ∉ [Phase.wManifest, .wMpath, .wDpath, .wFpath] := by decide

theorem witness_WriterCounts :
    (255 : Symbol).val = (0xFF#8).toNat ∧ State.reset.fph ≠ .wFcount ∧ (inPh .wFcount).fph = .wFcount ∧
    entry (inPh .wFcount).freq 255 ≠ State.reset.cfg.cntMax ∧
    entry { inPh .wFcount with freq := setEntry freqZero 255 (2 ^ 31 - 1) }.freq 255 = State.reset.cfg.cntMax := by
  decide +kernel

theorem witness_FileHeaderBuildsTheCanonicalCode :
    (inPh .wFcount).fph = .wFcount ∧ State.reset.fph ≠ .wFcount ∧
    entry (inPh .wFcount).freq sentinel ≠ State.reset.cfg.cntMax ∧
    entry { inPh .wFcount with freq := setEntry freqZero 256 (2 ^ 31 - 1) }.freq sentinel = State.reset.cfg.cntMax ∧
    buildTree (countSymbol freqB sentinel) = some greedyB ∧ ∀ p ∈ greedyB.depths 0, p.2 ≤ 255 := by decide +kernel

/-- Counters beyond any `CNT_W` the spec allows (R135): each is twice the one before, so the tree is 256 deep. -/
theorem witness_FileHeaderBuildsTheCanonicalCode_overflow :
    ∃ t0, buildTree (countSymbol (setEntry (tabulate fun a => 2 ^ a.val) 256 (2 ^ 256 - 1)) sentinel) = some t0 ∧
      ((0 : Symbol), 256) ∈ t0.depths 0 := by
  have h : (buildTree (countSymbol (setEntry (tabulate fun a => 2 ^ a.val) 256 (2 ^ 256 - 1)) sentinel)).any
      (fun t0 => decide (((0 : Symbol), 256) ∈ t0.depths 0)) = true := by decide +kernel
  cases ht : buildTree (countSymbol (setEntry (tabulate fun a => 2 ^ a.val) 256 (2 ^ 256 - 1)) sentinel) with
  | none => rw [ht] at h; exact absurd h (by decide)
  | some t0 => rw [ht] at h; exact ⟨t0, rfl, of_decide_eq_true h⟩

theorem witness_WriterPayload :
    State.reset.fph ≠ .wPayload ∧ midPayload.fph = .wPayload ∧ midPayload.code = some codeB ∧ midPayload.bw.length ≤ 7 ∧
    entry codeB (byteSymbol 0x43#8) = none ∧ entry codeB (byteSymbol 0x42#8) = some [false, false] ∧
    entry codeB sentinel = some [false, true] := by
  refine ⟨by decide, rfl, rfl, by decide, ?_, ?_, ?_⟩ <;> rw [codeB_entries] <;> decide

/-- A payload phase whose code table has no code for the sentinel (V-C29's codes). -/
theorem witness_WriterPayload_no_sentinel :
    ∃ s : State, s.fph = .wPayload ∧ s.code = some (codesOf (.node (.leaf 0) (.leaf 1))) ∧
      entry (codesOf (.node (.leaf 0) (.leaf 1))) sentinel = none :=
  ⟨{ inPh .wPayload with code := some (codesOf (.node (.leaf 0) (.leaf 1))) }, rfl, rfl,
    witness_EncoderCommands_no_sentinel⟩

theorem twoEntries_paths : ∀ e ∈ twoEntries, pathAllowed Config.reference e.path := by
  unfold pathAllowed; decide

theorem twoEntries_archive : (archiveOf Config.reference twoEntries).isSome = true := by decide +kernel

theorem witness_WriteRunWritesTheArchive :
    State.reset.fph = .idle ∧ State.reset.cfg.Valid ∧ (∀ e ∈ twoEntries, pathAllowed State.reset.cfg e.path) ∧
    (∀ e ∈ twoEntries, ∀ d, e.content = some d → ∀ b, d.count b ≤ State.reset.cfg.cntMax) ∧
    ∃ bytes, archiveOf State.reset.cfg twoEntries = some bytes := by
  refine ⟨rfl, by decide, twoEntries_paths, ?_, Option.isSome_iff_exists.mp twoEntries_archive⟩
  intro e he d hd b
  have hlen : d.length ≤ 1 := by
    simp only [twoEntries, List.mem_cons, List.not_mem_nil, or_false] at he
    rcases he with rfl | rfl
    · injection hd
    · injection hd with hd; subst hd; decide
  exact (List.count_le_length).trans (hlen.trans (by decide))

theorem witness_DfsOrderIsReversedPreorder : (FsNode.dir [0x64#8] [.file [0x61#8] []]).size ≤ 2 := by decide

theorem witness_ReaderChecksTheMagic :
    State.reset.fph = .idle ∧ (inPh .fatal).fph ≠ .idle ∧
    (withIn [0x48#8, 0x46#8]).inq = State.reset.cfg.magic0 :: State.reset.cfg.magic1 :: [] ∧
    0x47#8 ≠ State.reset.cfg.magic1 ∧ (withIn [0x48#8]).inq.length < 2 ∧ (withIn [0x48#8]).eos = true ∧
    State.reset.inq.length < 2 ∧ State.reset.eos = false := by decide

theorem witness_ReaderManifest :
    State.reset.fph ≠ .rManifest ∧ (inPh .rManifest).fph = .rManifest ∧
    (withIn [0x61#8, 0xFF#8, 0x44#8]).inq = [0x61#8] ++ State.reset.cfg.mend :: [0x44#8] ∧
    State.reset.cfg.mend ∉ [0x61#8] ∧ State.reset.cfg.mend ≠ 0x00#8 ∧ 0x61#8 ≠ 0x00#8 ∧
    State.reset.cfg.mend ∉ (withIn [0x61#8]).inq ∧ (withIn [0x61#8]).eos = true ∧
    (inPh .rManifest).inq = [] ∧ (inPh .rManifest).eos = false := by decide

theorem witness_ReaderEntriesAndPaths :
    State.reset.fph ≠ .rEntry ∧ (inPh .rEntry).fph = .rEntry ∧ State.reset.cfg.tagFile ≠ State.reset.cfg.tagDir ∧
    0x51#8 ≠ State.reset.cfg.tagDir ∧ 0x51#8 ≠ State.reset.cfg.tagFile ∧
    (withIn []).inq = [] ∧ (withIn []).eos = true ∧ (inPh .rEntry).inq = [] ∧ (inPh .rEntry).eos = false ∧
    State.reset.fph ≠ .rDpath ∧ State.reset.fph ≠ .rFpath ∧ ((inPh .rFpath).fph = .rDpath ∨ (inPh .rFpath).fph = .rFpath) ∧
    (withIn [0xFF#8]).inq = 0xFF#8 :: [] := by decide

theorem witness_ReaderFileHeader :
    State.reset.fph ≠ .rLens ∧ (inPh .rLens).fph = .rLens ∧
    (withIn (lenB.toList ++ [0xC4#8])).inq = lenB.toList ++ [0xC4#8] ∧ kraftSum lenB = 1 ∧ kraftSum lenZero ≠ 1 ∧
    (withIn (List.replicate 256 0#8)).inq.length < 257 ∧ (inPh .rLens).inq.length < 257 ∧ (inPh .rLens).eos = false :=
  ⟨by decide, rfl, rfl, witness_TreeFromLenSucceedsExactlyOnKraft.1, witness_TreeFromLenSucceedsExactlyOnKraft.2,
    by decide +kernel, by decide, rfl⟩

theorem witness_ReaderDecodesThePayload :
    State.reset.fph ≠ .rPayload ∧ treeB.isNode = true ∧ State.reset.br.closed = true ∧
    (reading 0x40#8 7).br.rem ≤ 8 ∧ ((256 : Symbol), [false, true]) ∈ treeB.paths [] ∧
    (reading 0x40#8 8).bitsAhead = [false, true] ++ [false, false, false, false, false, false] ∧
    ((0x41 : Symbol), [true]) ∈ treeB.paths [] ∧ (reading 0x80#8 8).bitsAhead = [true] ++ List.replicate 7 false ∧
    (∀ q ∈ treeB.paths [], ¬ q.2 <+: (reading 0x00#8 1).bitsAhead) ∧ (reading 0x00#8 1).eos = true ∧
    (∀ q ∈ treeB.paths [], ¬ q.2 <+: starved.bitsAhead) ∧ starved.eos = false := by decide

theorem witness_RunsEndAndAbort :
    ((inPh .rDone).fph = .rEntry ∨ (inPh .rDone).fph = .rDone) ∧ State.reset.fph ≠ .rEntry ∧
    State.reset.fph ≠ .rDone := by decide

theorem witness_ExtractionReproducesTheArchive :
    ∃ (s : State) (bytes : List Byte), s.fph = .idle ∧ s.cfg.Valid ∧ (∀ e ∈ twoEntries, pathAllowed s.cfg e.path) ∧
      archiveOf s.cfg twoEntries = some bytes ∧ s.inq = bytes ∧ s.eos = true := by
  obtain ⟨bytes, h⟩ := Option.isSome_iff_exists.mp twoEntries_archive
  exact ⟨withIn bytes, bytes, rfl, (by decide : Config.reference.Valid), twoEntries_paths, h, rfl, rfl⟩

theorem witness_PreviewListsThePaths :
    ∃ (s : State) (rest : List Byte), s.fph = .idle ∧ s.cfg.Valid ∧ (∀ e ∈ twoEntries, pathAllowed s.cfg e.path) ∧
      s.inq = [s.cfg.magic0, s.cfg.magic1] ++ manifestOf twoEntries ++ [s.cfg.mend] ++ rest :=
  ⟨withIn ([0x48#8, 0x46#8] ++ manifestOf twoEntries ++ [0xFF#8] ++ [0x44#8]), [0x44#8], rfl, by decide,
    twoEntries_paths, rfl⟩

end Sys2Proof.Tests
end

/-! ## Commands that report an error -/

namespace Sys2Proof.Machine

/-! ### Reading changes only IN's queue and the BitReader -/

/-- `u` differs from `s` at most in IN's queue, the BitReader and `STATUS.END`. -/
def State.ReadsTo (s u : State) : Prop := ∃ q r e, u = { s with inq := q, br := r, endf := e }

theorem State.ReadsTo.refl (s : State) : s.ReadsTo s := ⟨_, _, _, rfl⟩

theorem State.ReadsTo.fph_eq {s u : State} (h : s.ReadsTo u) : u.fph = s.fph := by
  obtain ⟨q, r, e, rfl⟩ := h
  rfl

theorem State.ReadsTo.complete {s u : State} (h : s.accept.ReadsTo u) : s.completed.ReadsTo u.complete := by
  obtain ⟨q, r, e, rfl⟩ := h
  exact ⟨q, r, e, rfl⟩

/-- Everything reading a length table can do (R151, R228). -/
theorem inReadTable_cases (s : State) :
    (257 ≤ s.inq.length ∧ inReadTable s = .full (s.inq.take 257) { s with inq := s.inq.drop 257 }) ∨
      (s.inq.length < 257 ∧ s.eos = true ∧ inReadTable s = .short s.inq.length { s with inq := [] }) ∨
      (s.inq.length < 257 ∧ s.eos = false ∧ inReadTable s = .hold) := by
  have heq : inReadTable s = _ := inReadMany_eq 257 [] s
  by_cases hlen : 257 ≤ s.inq.length
  · exact .inl ⟨hlen, by simpa [hlen] using heq⟩
  · cases he : s.eos with
    | true => exact .inr (.inl ⟨by omega, rfl, by simpa [hlen, he] using heq⟩)
    | false => exact .inr (.inr ⟨by omega, rfl, by simpa [hlen, he] using heq⟩)

/-- Everything reading IN past a byte can do (R224). -/
theorem inReadPast_cases (m : Byte) (s : State) :
    (∃ pre post, s.inq = pre ++ m :: post ∧ m ∉ pre ∧ inReadPast m s = .found { s with inq := post }) ∨
      (m ∉ s.inq ∧ s.eos = true ∧ inReadPast m s = .atEnd { s with inq := [] }) ∨
      (m ∉ s.inq ∧ s.eos = false ∧ inReadPast m s = .hold) := by
  by_cases hm : m ∈ s.inq
  · obtain ⟨pre, post, hq, hpre⟩ := List.eq_append_cons_of_mem hm
    exact .inl ⟨pre, post, hq, hpre, inReadUntil_found _ hq hpre (by simp [hq])⟩
  · have heq : inReadPast m s = _ := inReadUntil_absent (s.inq.length + 1) hm (by omega)
    cases he : s.eos with
    | true => exact .inr (.inl ⟨hm, rfl, by simpa [he] using heq⟩)
    | false => exact .inr (.inr ⟨hm, rfl, by simpa [he] using heq⟩)

/-! ### Writing does not touch `ERR` -/

@[simp] theorem State.bwPut_err (s : State) (b : Bool) : (s.bwPut b).err = s.err := by
  obtain ⟨out, bw, h⟩ := bwPut_frame s b
  rw [h]

@[simp] theorem State.enc_err (s : State) (x : Bits) : (s.enc x).err = s.err := by
  obtain ⟨out, bw, h⟩ := bwPutAll_frame s x
  rw [State.enc, h]

@[simp] theorem State.bwClose_err (s : State) : s.bwClose.err = s.err := by
  obtain ⟨out, h⟩ := bwClose_frame s
  rw [h]

@[simp] theorem State.markSentinel_err (s : State) (x : Symbol) : (s.markSentinel x).err = s.err := by
  unfold State.markSentinel
  split <;> rfl

@[simp] theorem finishSymbol_err (x : Symbol) (s : State) : (finishSymbol x s).err = s.err := by
  unfold finishSymbol
  split <;> rfl

/-! ### The frame of an error -/

/-- `u` is `s` after an error's report (R252), what was read before it staying read (R257), in the phase of `s` or in one
that `raise_fatal` or `raise_entry` gives (R253, R254). -/
def State.ErrorFrame (s u : State) : Prop :=
  ∃ v p e info, s.ReadsTo v ∧ (p = s.fph ∨ p = .fatal ∨ p = .rEntry) ∧ u = (v.toPhase p).report e info

/-- A rule that ends with `ERR` set has only reported an error. -/
def Ending.OnlyReports (s : State) : Ending → Prop
  | .done u => u.err = true → s.ErrorFrame u
  | .hold => True
  | .stuck _ => True

/-- A command that completes with `ERR` set has only reported an error; `State.completed` is R251's clearing. -/
def OutcomeOnlyReports (s : State) (o : Host.Outcome State Fault Refusal) : Prop :=
  ∀ t, o = .next t → t.busy = false → t.err = true → s.completed.ErrorFrame t

theorem command_onlyReports {rule : State → Ending} {s : State} (hrule : (rule s.accept).OnlyReports s.accept) :
    OutcomeOnlyReports s (command rule s) := by
  intro t ht hbusy herr
  rcases command_next ht with ⟨u, hu, rfl⟩ | ⟨_, rfl⟩
  · rw [hu] at hrule
    obtain ⟨v, p, e, info, hread, hphase, rfl⟩ := hrule herr
    exact ⟨v.complete, p, e, info, hread.complete, hphase, rfl⟩
  · exact absurd hbusy (by simp)

theorem done_onlyReports {s u : State} (h : u.err = false) : (Ending.done u).OnlyReports s :=
  fun herr => absurd herr (by simp [h])

theorem raise_onlyReports {s u : State} (h : s.ReadsTo u) (e : ErrCode) (info : Word) :
    (raise e info u).OnlyReports s :=
  fun _ => ⟨u, u.fph, e, info, h, .inl h.fph_eq, rfl⟩

theorem raiseFatal_onlyReports {s u : State} (h : s.ReadsTo u) (e : ErrCode) (info : Word) :
    (raiseFatal e info u).OnlyReports s :=
  fun _ => ⟨u, .fatal, e, info, h, .inr (.inl rfl), rfl⟩

theorem raiseEntry_onlyReports {s u : State} (h : s.ReadsTo u) (e : ErrCode) (info : Word) :
    (raiseEntry e info u).OnlyReports s :=
  fun _ => ⟨u, .rEntry, e, info, h, .inr (.inr rfl), rfl⟩

theorem withSymbol_onlyReports {a : BitVec 9} {s : State} {rule : Symbol → Ending}
    (h : ∀ x, (rule x).OnlyReports s) : (withSymbol a s rule).OnlyReports s := by
  by_cases ha : a.toNat < 257
  · rw [withSymbol_in ha]
    exact h _
  · rw [withSymbol_out ha]
    exact raise_onlyReports (.refl s) _ _

theorem inPhase_onlyReports {ps : List Phase} {s : State} {rule : Ending} (h : rule.OnlyReports s) :
    (inPhase ps s rule).OnlyReports s := by
  by_cases hp : s.fph ∈ ps
  · rwa [inPhase_in hp]
  · rw [inPhase_out hp]
    exact raise_onlyReports (.refl s) _ _

/-! ### The standalone commands with more than one outcome -/

theorem execBrGet_onlyReports (s : State) : OutcomeOnlyReports s (execBrGet s) := by
  refine command_onlyReports ?_
  rcases brGet_cases s.accept with ⟨_, h⟩ | ⟨_, _, h⟩ | ⟨_, _, c, q, _, h⟩ | ⟨_, _, _, _, h⟩ | ⟨_, _, _, _, h⟩ <;> rw [h]
  · exact done_onlyReports rfl
  · exact done_onlyReports rfl
  · exact done_onlyReports rfl
  · exact done_onlyReports rfl
  · trivial

theorem execFreqInc_onlyReports (a : BitVec 9) (s : State) : OutcomeOnlyReports s (execFreqInc a s) := by
  refine command_onlyReports (withSymbol_onlyReports fun x => ?_)
  split
  · exact raise_onlyReports (.refl _) _ _
  · exact done_onlyReports rfl

theorem execLenFromTree_onlyReports (s : State) : OutcomeOnlyReports s (execLenFromTree s) := by
  refine command_onlyReports ?_
  split
  · exact raise_onlyReports (.refl _) _ _
  · split
    · exact raise_onlyReports (.refl _) _ _
    · exact done_onlyReports rfl

theorem execTreeFromLen_onlyReports (s : State) : OutcomeOnlyReports s (execTreeFromLen s) := by
  refine command_onlyReports ?_
  split
  · exact raise_onlyReports (.refl _) _ _
  · exact done_onlyReports rfl

theorem execLenLoad_onlyReports (s : State) : OutcomeOnlyReports s (execLenLoad s) := by
  refine command_onlyReports ?_
  rcases inReadTable_cases s.accept with ⟨_, h⟩ | ⟨_, _, h⟩ | ⟨_, _, h⟩ <;> rw [h]
  · exact done_onlyReports rfl
  · exact raise_onlyReports ⟨_, _, _, rfl⟩ _ _
  · trivial

theorem execCodeGen_onlyReports (s : State) : OutcomeOnlyReports s (execCodeGen s) := by
  refine command_onlyReports ?_
  split
  · exact raise_onlyReports (.refl _) _ _
  · split
    · exact raise_onlyReports (.refl _) _ _
    · exact done_onlyReports rfl

theorem execCodeLen_onlyReports (a : BitVec 9) (s : State) : OutcomeOnlyReports s (execCodeLen a s) := by
  refine command_onlyReports (withSymbol_onlyReports fun x => ?_)
  split
  · exact raise_onlyReports (.refl _) _ _
  · exact done_onlyReports rfl

theorem execCodeBit_onlyReports (a : BitVec 9) (v : Byte) (s : State) : OutcomeOnlyReports s (execCodeBit a v s) := by
  refine command_onlyReports (withSymbol_onlyReports fun x => ?_)
  split
  · exact raise_onlyReports (.refl _) _ _
  · split
    · exact raise_onlyReports (.refl _) _ _
    · exact done_onlyReports rfl

theorem execEncSym_onlyReports (a : BitVec 9) (s : State) : OutcomeOnlyReports s (execEncSym a s) := by
  refine command_onlyReports (withSymbol_onlyReports fun x => ?_)
  split
  · exact raise_onlyReports (.refl _) _ _
  · exact done_onlyReports (by simp)

theorem execEncEnd_onlyReports (s : State) : OutcomeOnlyReports s (execEncEnd s) := by
  refine command_onlyReports ?_
  split
  · exact raise_onlyReports (.refl _) _ _
  · exact done_onlyReports (by simp)

theorem execDecSym_onlyReports (s : State) : OutcomeOnlyReports s (execDecSym s) := by
  refine command_onlyReports ?_
  split
  · exact raise_onlyReports (.refl _) _ _
  case _ n _ =>
    rcases walk_frame n s.accept with ⟨x, q, r, h⟩ | ⟨q, r, h⟩ | h <;> rw [h]
    · exact done_onlyReports (by simp)
    · exact raise_onlyReports ⟨_, _, _, rfl⟩ _ _
    · trivial

/-! ### The framer's write path -/

theorem execAwPbyte_onlyReports (b : Byte) (s : State) : OutcomeOnlyReports s (execAwPbyte b s) := by
  refine command_onlyReports (inPhase_onlyReports ?_)
  split
  · exact raise_onlyReports (.refl _) _ _
  · exact done_onlyReports rfl

theorem execAwCount_onlyReports (b : Byte) (s : State) : OutcomeOnlyReports s (execAwCount b s) := by
  refine command_onlyReports (inPhase_onlyReports ?_)
  dsimp only [withByte]
  split
  · exact raiseFatal_onlyReports (.refl _) _ _
  · exact done_onlyReports rfl

theorem execAwFilehdr_onlyReports (s : State) : OutcomeOnlyReports s (execAwFilehdr s) := by
  refine command_onlyReports (inPhase_onlyReports ?_)
  split
  · exact raiseFatal_onlyReports (.refl _) _ _
  · split
    · exact raiseFatal_onlyReports (.refl _) _ _
    · trivial
    · exact done_onlyReports rfl

theorem execAwSym_onlyReports (b : Byte) (s : State) : OutcomeOnlyReports s (execAwSym b s) := by
  refine command_onlyReports (inPhase_onlyReports ?_)
  dsimp only [withByte]
  split
  · exact raiseFatal_onlyReports (.refl _) _ _
  · exact done_onlyReports (by simp)

theorem execAwFend_onlyReports (s : State) : OutcomeOnlyReports s (execAwFend s) := by
  refine command_onlyReports (inPhase_onlyReports ?_)
  split
  · exact raiseFatal_onlyReports (.refl _) _ _
  · exact done_onlyReports (by simp)

/-! ### The framer's read path -/

theorem checkMagic_onlyReports {s u : State} (h : s.ReadsTo u) (hu : u.err = false) (c0 c1 : Byte) :
    (checkMagic c0 c1 u).OnlyReports s := by
  unfold checkMagic
  split
  · exact raiseFatal_onlyReports h _ _
  · exact done_onlyReports hu

theorem execArMagic_onlyReports (s : State) : OutcomeOnlyReports s (execArMagic s) := by
  refine command_onlyReports (inPhase_onlyReports ?_)
  rcases inRead_cases s.accept with ⟨c0, q, _, h⟩ | ⟨_, _, h⟩ | ⟨_, _, h⟩ <;> rw [h]
  · dsimp only
    rcases inRead_cases { s.accept with inq := q } with ⟨c1, q', _, h'⟩ | ⟨_, _, h'⟩ | ⟨_, _, h'⟩ <;> rw [h']
    · exact checkMagic_onlyReports ⟨_, _, _, rfl⟩ rfl c0 c1
    · exact raiseFatal_onlyReports ⟨_, _, _, rfl⟩ _ _
    · trivial
  · exact raiseFatal_onlyReports ⟨_, _, _, rfl⟩ _ _
  · trivial

theorem execArMbyte_onlyReports (s : State) : OutcomeOnlyReports s (execArMbyte s) := by
  refine command_onlyReports (inPhase_onlyReports ?_)
  rcases inRead_cases s.accept with ⟨c, q, _, h⟩ | ⟨_, _, h⟩ | ⟨_, _, h⟩ <;> rw [h]
  · dsimp only
    split
    · exact done_onlyReports rfl
    · split <;> exact done_onlyReports rfl
  · exact raiseFatal_onlyReports ⟨_, _, _, rfl⟩ _ _
  · trivial

theorem execArSkipm_onlyReports (s : State) : OutcomeOnlyReports s (execArSkipm s) := by
  refine command_onlyReports (inPhase_onlyReports ?_)
  rcases inReadPast_cases s.accept.cfg.mend s.accept with ⟨_, post, _, _, h⟩ | ⟨_, _, h⟩ | ⟨_, _, h⟩ <;> rw [h]
  · exact done_onlyReports rfl
  · exact raiseFatal_onlyReports ⟨_, _, _, rfl⟩ _ _
  · trivial

theorem execArEntry_onlyReports (s : State) : OutcomeOnlyReports s (execArEntry s) := by
  refine command_onlyReports (inPhase_onlyReports ?_)
  rcases inRead_cases s.accept with ⟨c, q, _, h⟩ | ⟨_, _, h⟩ | ⟨_, _, h⟩ <;> rw [h]
  · dsimp only
    split
    · exact done_onlyReports rfl
    · split
      · exact done_onlyReports rfl
      · exact raiseFatal_onlyReports ⟨_, _, _, rfl⟩ _ _
  · exact done_onlyReports rfl
  · trivial

theorem execArPbyte_onlyReports (s : State) : OutcomeOnlyReports s (execArPbyte s) := by
  refine command_onlyReports (inPhase_onlyReports ?_)
  rcases inRead_cases s.accept with ⟨c, q, _, h⟩ | ⟨_, _, h⟩ | ⟨_, _, h⟩ <;> rw [h]
  · dsimp only
    split <;> exact done_onlyReports rfl
  · exact raiseFatal_onlyReports ⟨_, _, _, rfl⟩ _ _
  · trivial

theorem execArFilehdr_onlyReports (s : State) : OutcomeOnlyReports s (execArFilehdr s) := by
  refine command_onlyReports (inPhase_onlyReports ?_)
  rcases inReadTable_cases s.accept with ⟨_, h⟩ | ⟨_, _, h⟩ | ⟨_, _, h⟩ <;> rw [h]
  · dsimp only
    split
    · exact raiseFatal_onlyReports ⟨_, _, _, rfl⟩ _ _
    · exact done_onlyReports rfl
  · exact raiseEntry_onlyReports ⟨_, _, _, rfl⟩ _ _
  · trivial

theorem execArSym_onlyReports (s : State) : OutcomeOnlyReports s (execArSym s) := by
  refine command_onlyReports (inPhase_onlyReports ?_)
  split
  · trivial
  case _ n _ =>
    rcases walk_frame n s.accept with ⟨x, q, r, h⟩ | ⟨q, r, h⟩ | h <;> rw [h]
    · exact done_onlyReports (by simp)
    · exact raiseEntry_onlyReports ⟨_, _, _, rfl⟩ _ _
    · trivial

/-! ### All commands -/

/-- A command that completes with `ERR` set is R251's clearing, an error's report, and what was read before it. -/
theorem exec_onlyReports (i : Instr) (s : State) : OutcomeOnlyReports s (exec i s) := by
  unfold exec
  cases i with
  | nop | srst | brOpen | brClose | freqClr | treeBuild | lenClr | lenEmit | frAbort =>
    refine command_onlyReports ?_
    exact done_onlyReports rfl
  | bwPut t =>
    refine command_onlyReports ?_
    exact done_onlyReports (State.bwPut_err s.accept t)
  | bwClose =>
    refine command_onlyReports ?_
    exact done_onlyReports (State.bwClose_err s.accept)
  | freqGet a | lenGet a | lenSet a v =>
    refine command_onlyReports ?_
    exact withSymbol_onlyReports fun _ => done_onlyReports rfl
  | awBegin | awPend | awMend | awDir | awFile | awEnd | arEnd =>
    refine command_onlyReports ?_
    exact inPhase_onlyReports (done_onlyReports rfl)
  | brGet => exact execBrGet_onlyReports s
  | freqInc a => exact execFreqInc_onlyReports a s
  | lenFromTree => exact execLenFromTree_onlyReports s
  | treeFromLen => exact execTreeFromLen_onlyReports s
  | lenLoad => exact execLenLoad_onlyReports s
  | codeGen => exact execCodeGen_onlyReports s
  | codeLen a => exact execCodeLen_onlyReports a s
  | codeBit a v => exact execCodeBit_onlyReports a v s
  | encSym a => exact execEncSym_onlyReports a s
  | encEnd => exact execEncEnd_onlyReports s
  | decSym => exact execDecSym_onlyReports s
  | awPbyte b => exact execAwPbyte_onlyReports b s
  | awCount b => exact execAwCount_onlyReports b s
  | awFilehdr => exact execAwFilehdr_onlyReports s
  | awSym b => exact execAwSym_onlyReports b s
  | awFend => exact execAwFend_onlyReports s
  | arMagic => exact execArMagic_onlyReports s
  | arMbyte => exact execArMbyte_onlyReports s
  | arSkipm => exact execArSkipm_onlyReports s
  | arEntry => exact execArEntry_onlyReports s
  | arPbyte => exact execArPbyte_onlyReports s
  | arFilehdr => exact execArFilehdr_onlyReports s
  | arSym => exact execArSym_onlyReports s

/-- Settles O10: the frame of an error, which every command keeps, names each of the fields as the state before had it. -/
theorem failedCommandsLeaveTables : Obligations.FailedCommandsLeaveTables := by
  unfold Obligations.FailedCommandsLeaveTables
  intro i s t hexec hbusy herr
  obtain ⟨_, p, e, info, ⟨q, r, endf, rfl⟩, hphase, rfl⟩ := exec_onlyReports i s t hexec hbusy herr
  exact ⟨rfl, rfl, rfl, rfl, rfl, rfl, rfl, rfl, hphase⟩

end Sys2Proof.Machine

/-! ## The state: what every command keeps, the invariant, the register window and the host -/

namespace Sys2Proof.Machine

/-! ### The builder's tree -/

/-- Taking the least entry out loses none. -/
theorem extractLeast_perm (x : Candidate) (p : List Candidate) :
    ((extractLeast x p).1 :: (extractLeast x p).2).Perm (x :: p) := by
  induction p generalizing x with
  | nil => exact .refl _
  | cons y p ih =>
    simp only [extractLeast]
    split
    · exact (List.Perm.swap _ _ _).trans ((ih y).cons x)
    · exact .refl _

/-- One merge of R133: two entries leave the structure, and the node over their trees joins it. -/
theorem mergeLoop_merge (fuel k : Nat) (p q : Candidate) (r : List Candidate) :
    ∃ x y rest w, (x :: y :: rest).Perm (p :: q :: r) ∧
      mergeLoop (fuel + 1) k (p :: q :: r) =
        mergeLoop fuel (k + 1) (rest ++ [⟨w, 257 + k, .node x.tree y.tree⟩]) := by
  have hfirst := extractLeast_perm p (q :: r)
  simp only [mergeLoop]
  rcases hleast : extractLeast p (q :: r) with ⟨x, rest⟩
  rw [hleast] at hfirst
  cases rest with
  | nil => simpa using hfirst.length_eq
  | cons y rest =>
    exact ⟨x, _, _, _, ((extractLeast_perm y rest).cons x).trans hfirst, rfl⟩

/-- The labels of an entry's tree. -/
def Candidate.labels (c : Candidate) : List Symbol := c.tree.labels

/-- R133's loop ends in a tree whose leaves are those of the entries, and in a node when there were two entries. -/
theorem mergeLoop_spec (fuel k : Nat) (p : List Candidate) (hne : p ≠ []) (hlen : p.length ≤ fuel + 1) :
    ∃ t, mergeLoop fuel k p = some t ∧ t.labels.Perm (p.flatMap Candidate.labels) ∧
      (2 ≤ p.length → t.isNode = true) := by
  induction fuel generalizing k p with
  | zero =>
    obtain ⟨x, rfl⟩ : ∃ x, p = [x] := List.length_eq_one_iff.mp (by have := List.length_pos_iff.mpr hne; omega)
    exact ⟨x.tree, by simp [mergeLoop], by simp [Candidate.labels], by simp⟩
  | succ fuel ih =>
    match p, hne with
    | [x], _ => exact ⟨x.tree, by simp [mergeLoop], by simp [Candidate.labels], by simp⟩
    | a :: b :: r, _ =>
      obtain ⟨x, y, rest, w, hperm, heq⟩ := mergeLoop_merge fuel k a b r
      have hcount : rest.length = r.length := by simpa using hperm.length_eq
      obtain ⟨t, ht, hlabels, hnode⟩ :=
        ih (k + 1) (rest ++ [⟨w, 257 + k, .node x.tree y.tree⟩]) (by simp) (by simp at hlen ⊢; omega)
      refine ⟨t, heq.trans ht, ?_, fun _ => ?_⟩
      · have hmerged : ((rest ++ [Candidate.mk w (257 + k) (.node x.tree y.tree)]).flatMap Candidate.labels).Perm
            ((x :: y :: rest).flatMap Candidate.labels) := by
          simpa [Candidate.labels, CodeTree.labels] using
            List.perm_append_comm (l₁ := rest.flatMap Candidate.labels) (l₂ := x.tree.labels ++ y.tree.labels)
        exact hlabels.trans (hmerged.trans (hperm.flatMap_right _))
      · cases rest with
        | nil =>
          simp only [List.nil_append, mergeLoop, Option.some.injEq] at ht
          rw [← ht]; rfl
        | cons z rest => exact hnode (by simp)

/-- R131's padding adds the smallest unused symbols until there are two entries. -/
theorem padCandidates_eq (f : FreqTable) (ss : List Symbol) (p : List Candidate) :
    padCandidates f ss p =
      p ++ ((ss.filter fun a => decide (entry f a = 0)).take (2 - p.length)).map (leafCandidate f) := by
  induction ss generalizing p with
  | nil => simp [padCandidates]
  | cons a ss ih =>
    by_cases hp : p.length < 2
    · by_cases ha : entry f a = 0
      · have htwo : 2 - p.length = (2 - (p.length + 1)) + 1 := by omega
        simp [padCandidates, hp, ha, ih, htwo]
      · simp [padCandidates, hp, ha, ih]
    · have hzero : 2 - p.length = 0 := by omega
      simp [padCandidates, hp, hzero]

/-- The symbols that get a leaf (R131). -/
def leafSymbols (f : FreqTable) : List Symbol :=
  let positive := allSymbols.filter fun a => decide (0 < entry f a)
  positive ++ (allSymbols.filter fun a => decide (entry f a = 0)).take (2 - positive.length)

theorem candidates_eq (f : FreqTable) : candidates f = (leafSymbols f).map (leafCandidate f) := by
  simp [candidates, padCandidates_eq, leafSymbols]

theorem allSymbols_nodup : allSymbols.Nodup := List.nodup_finRange 257

theorem leafSymbols_nodup (f : FreqTable) : (leafSymbols f).Nodup := by
  refine List.Nodup.append (allSymbols_nodup.filter _) ((allSymbols_nodup.filter _).sublist (List.take_sublist _ _)) ?_
  intro a hpos hzero
  have := List.mem_of_mem_take hzero
  simp_all

/-- There are always two leaves: of 257 symbols those not counted are left to pad with. -/
theorem two_le_length_leafSymbols (f : FreqTable) : 2 ≤ (leafSymbols f).length := by
  have hsplit : (allSymbols.filter fun a => decide (0 < entry f a)).length +
      (allSymbols.filter fun a => decide (entry f a = 0)).length = 257 := by
    have := List.length_eq_length_filter_add (l := allSymbols) fun a => decide (0 < entry f a)
    rw [allSymbols_length] at this
    simpa [Nat.pos_iff_ne_zero] using this.symm
  simp only [leafSymbols, List.length_append, List.length_take]
  omega

/-- R133: every frequency table gives a tree, and it meets R30. -/
theorem buildTree_ok (f : FreqTable) : ∃ t, buildTree f = some t ∧ t.Ok := by
  have hcandidates := candidates_eq f
  have hcount : 2 ≤ (candidates f).length := by
    simpa [hcandidates] using two_le_length_leafSymbols f
  obtain ⟨t, ht, hlabels, hnode⟩ :=
    mergeLoop_spec (candidates f).length 0 (candidates f) (List.length_pos_iff.mp (by omega)) (by omega)
  refine ⟨t, ht, hnode hcount, hlabels.nodup_iff.mpr ?_⟩
  have hleaves : (candidates f).flatMap Candidate.labels = leafSymbols f := by
    simp [hcandidates, List.flatMap_map, leafCandidate, Candidate.labels, CodeTree.labels]
  exact hleaves ▸ leafSymbols_nodup f

/-! ### The reconstructor's tree -/

/-- The number of edges on the longest path from the root. -/
def CodeTree.height : CodeTree → Nat
  | .leaf _ => 0
  | .node l r => max l.height r.height + 1

/-- Pairing keeps the leaves in order, gives nodes only, and adds one to the height. -/
theorem pairUp_spec {ts up : List CodeTree} (h : pairUp ts = some up) :
    up.flatMap CodeTree.labels = ts.flatMap CodeTree.labels ∧ (∀ t ∈ up, t.isNode = true) ∧
      ∀ n, (∀ t ∈ ts, t.height ≤ n) → ∀ t ∈ up, t.height ≤ n + 1 := by
  induction ts using pairUp.induct generalizing up with
  | case1 => cases h; simp
  | case2 => cases h
  | case3 a b r ih =>
    obtain ⟨up, hr, rfl⟩ := Option.map_eq_some_iff.mp h
    obtain ⟨hlabels, hnodes, hheight⟩ := ih hr
    refine ⟨by simp [CodeTree.labels, hlabels], by simpa [CodeTree.isNode] using hnodes, fun n hn => ?_⟩
    simp only [List.mem_cons, forall_eq_or_imp, CodeTree.height] at hn ⊢
    exact ⟨by omega, hheight n hn.2.2⟩

theorem labels_leavesAt (len : LenTable) (d : Nat) :
    (leavesAt len d).flatMap CodeTree.labels = allSymbols.filter fun s => decide ((entry len s).toNat = d) := by
  simp [leavesAt, List.flatMap_map, CodeTree.labels]

/-- R142's loop labels no two leaves alike: the leaves it adds at a level are of symbols of that length, those carried
over of longer ones. -/
theorem reconLevels_nodup {len : LenTable} {d : Nat} {ts us : List CodeTree} (h : reconLevels len d ts = some us)
    (hnodup : (ts.flatMap CodeTree.labels).Nodup)
    (hlonger : ∀ s ∈ ts.flatMap CodeTree.labels, d < (entry len s).toNat) : (us.flatMap CodeTree.labels).Nodup := by
  induction d generalizing ts with
  | zero => cases h; exact hnodup
  | succ d ih =>
    rw [reconLevels] at h
    split at h
    case h_2 => cases h
    case h_1 up hup =>
      have hlabels : up.flatMap CodeTree.labels = ts.flatMap CodeTree.labels ++
          allSymbols.filter fun s => decide ((entry len s).toNat = d + 1) := by
        rw [(pairUp_spec hup).1, List.flatMap_append, labels_leavesAt]
      refine ih h ?_ ?_ <;> rw [hlabels]
      · refine hnodup.append (allSymbols_nodup.filter _) fun s hold hnew => ?_
        have := hlonger s hold
        simp_all
      · intro s hs
        rcases List.mem_append.mp hs with hold | hnew
        · exact Nat.lt_of_succ_lt (hlonger s hold)
        · simp at hnew; omega

/-- R142's loop adds at most one to the height a level. -/
theorem reconLevels_height {len : LenTable} {d n : Nat} {ts us : List CodeTree} (h : reconLevels len d ts = some us)
    (hts : ∀ t ∈ ts, t.height ≤ n) : ∀ u ∈ us, u.height ≤ n + d := by
  induction d generalizing ts n with
  | zero => cases h; exact hts
  | succ d ih =>
    rw [reconLevels] at h
    split at h
    case h_2 => cases h
    case h_1 up hup =>
      have hlevel : ∀ t ∈ ts ++ leavesAt len (d + 1), t.height ≤ n := by
        intro t ht
        rcases List.mem_append.mp ht with ht | ht
        · exact hts t ht
        · obtain ⟨s, _, rfl⟩ := List.mem_map.mp ht
          exact Nat.zero_le n
      intro u hu
      have := ih h ((pairUp_spec hup).2.2 n hlevel) u hu
      omega

/-- R142's loop ends in nodes when there was a level to pair. -/
theorem reconLevels_isNode {len : LenTable} {d : Nat} {ts us : List CodeTree} (h : reconLevels len d ts = some us)
    (hts : ∀ t ∈ ts, t.isNode = true ∨ 0 < d) : ∀ u ∈ us, u.isNode = true := by
  induction d generalizing ts with
  | zero => cases h; simpa using hts
  | succ d ih =>
    rw [reconLevels] at h
    split at h
    case h_2 => cases h
    case h_1 up hup => exact ih h fun t ht => .inl ((pairUp_spec hup).2.1 t ht)

theorem maxLength_le (len : LenTable) : maxLength len ≤ 255 := by
  have hfold : ∀ (ss : List Symbol) (m : Nat), m ≤ 255 →
      ss.foldl (fun m s => max m (entry len s).toNat) m ≤ 255 := by
    intro ss
    induction ss with
    | nil => exact fun _ hm => hm
    | cons s ss ih => exact fun m hm => ih _ (max_le hm (Nat.le_of_lt_succ (entry len s).isLt))
  exact hfold allSymbols 0 (by omega)

/-- R146: a reconstructed tree meets R30, and no leaf of it is deeper than 255. -/
theorem recon_ok {len : LenTable} {t : CodeTree} (h : recon len = some t) : t.Ok ∧ t.height ≤ 255 := by
  unfold recon at h
  split at h
  · cases h
  case isFalse hmax =>
    split at h
    case h_1 u hlevels =>
      cases h
      have hheight := reconLevels_height (n := 0) hlevels (by simp) t (by simp)
      have := maxLength_le len
      exact ⟨⟨reconLevels_isNode hlevels (by simp) t (by simp),
        by simpa using reconLevels_nodup hlevels (by simp) (by simp)⟩, by omega⟩
    all_goals cases h

/-! ### The codes of a tree -/

theorem codeOf_node {a : Symbol} {l r : CodeTree} {x : Bits} (h : codeOf a (.node l r) = some x) :
    (∃ y, codeOf a r = some y ∧ x = true :: y) ∨ ∃ y, codeOf a l = some y ∧ x = false :: y := by
  rw [codeOf] at h
  split at h
  case h_1 y hy => cases h; exact .inl ⟨y, hy, rfl⟩
  case h_2 =>
    obtain ⟨y, hy, rfl⟩ := Option.map_eq_some_iff.mp h
    exact .inr ⟨y, hy, rfl⟩

theorem length_codeOf_le_height {a : Symbol} {t : CodeTree} {x : Bits} (h : codeOf a t = some x) :
    x.length ≤ t.height := by
  induction t generalizing x with
  | leaf b =>
    rw [codeOf] at h
    split at h <;> cases h
    rfl
  | node l r ihl ihr =>
    rcases codeOf_node h with ⟨y, hy, rfl⟩ | ⟨y, hy, rfl⟩
    · have := ihr hy; simp [CodeTree.height]; omega
    · have := ihl hy; simp [CodeTree.height]; omega

theorem length_codeOf_pos {a : Symbol} {t : CodeTree} {x : Bits} (ht : t.isNode = true) (h : codeOf a t = some x) :
    1 ≤ x.length := by
  cases t with
  | leaf b => cases ht
  | node l r => rcases codeOf_node h with ⟨y, _, rfl⟩ | ⟨y, _, rfl⟩ <;> simp

/-- R161: the path to a leaf does not run through the leaf of another symbol. -/
theorem not_isPrefix_codeOf {a b : Symbol} (hab : a ≠ b) {t : CodeTree} {x y : Bits} (hx : codeOf a t = some x)
    (hy : codeOf b t = some y) : ¬ x <+: y := by
  induction t generalizing x y with
  | leaf c =>
    simp only [codeOf, Option.ite_none_right_eq_some] at hx hy
    exact absurd (hx.1.symm.trans hy.1) hab
  | node l r ihl ihr =>
    rcases codeOf_node hx with ⟨x', hx', rfl⟩ | ⟨x', hx', rfl⟩ <;>
      rcases codeOf_node hy with ⟨y', hy', rfl⟩ | ⟨y', hy', rfl⟩
    · simpa using ihr hx' hy'
    · simp
    · simp
    · simpa using ihl hx' hy'

/-- The codes of a tree that meets R30 meet R32 and R161 when none is longer than 255 bits. -/
theorem codesOf_ok {t : CodeTree} (ht : t.Ok) (hlong : ∀ a x, codeOf a t = some x → x.length ≤ 255) :
    CodeTable.Ok (codesOf t) := by
  simp only [CodeTable.Ok, codesOf, entry_tabulate]
  exact ⟨fun a x h => ⟨length_codeOf_pos ht.1 h, hlong a x h⟩, fun a b x y hab hx hy => not_isPrefix_codeOf hab hx hy⟩

/-- R160: `tooLong` finds every code of more than 255 bits. -/
theorem length_codeOf_le_of_tooLong {t : CodeTree} (h : tooLong t = none) (a : Symbol) (x : Bits)
    (hx : codeOf a t = some x) : x.length ≤ 255 := by
  simpa [hx] using List.find?_eq_none.mp h a (mem_allSymbols a)

/-- R200: the tables of a file hold a tree that meets R30 and codes that meet R32. -/
theorem fileHeader_ok {f : FreqTable} {len : LenTable} {t : CodeTree} {c : CodeTable}
    (h : fileHeader f = .tables len t c) : t.Ok ∧ CodeTable.Ok c := by
  unfold fileHeader at h
  split at h
  · cases h
  · split at h
    · cases h
    · split at h
      · cases h
      case h_2 hrecon =>
        cases h
        obtain ⟨hok, hheight⟩ := recon_ok hrecon
        exact ⟨hok, codesOf_ok hok fun a x hx => (length_codeOf_le_height hx).trans hheight⟩

/-! ### The invariant, but for the port -/

/-- R34, R103: what the invariant asks of the BitReader. -/
def BitReader.Ok (r : BitReader) : Prop := r.rem ≤ 8 ∧ (r.closed = true → r.rem = 0 ∧ r.buf = 0x00#8)

/-- `State.Inv` without its word on the port, over the fields it speaks of: an update of any other field keeps it as it
stands. -/
structure SafeParts (cfg : Config) (freq : FreqTable) (tree : Option CodeTree) (code : Option CodeTable) (bw : Bits)
    (br : BitReader) (fph : Phase) : Prop where
  cfgValid    : cfg.Valid
  freqBounded : ∀ a, entry freq a ≤ cfg.cntMax
  treeOk      : ∀ t, tree = some t → t.Ok
  codeOk      : ∀ c, code = some c → CodeTable.Ok c
  bwShort     : bw.length ≤ 7
  readerOk    : br.Ok
  payloadTree : fph = .rPayload → tree.isSome = true
  payloadCode : fph = .wPayload → code.isSome = true

abbrev State.Safe (s : State) : Prop := SafeParts s.cfg s.freq s.tree s.code s.bw s.br s.fph

theorem State.inv_iff (s : State) : s.Inv ↔ s.Safe ∧ (s.busy = true → s.cmdq ≠ []) := by
  constructor
  · rintro ⟨hcfg, hfreq, htree, hcode, hbw, hrem, hclosed, hptree, hpcode, hbusy⟩
    exact ⟨⟨hcfg, hfreq, htree, hcode, hbw, ⟨hrem, hclosed⟩, hptree, hpcode⟩, hbusy⟩
  · rintro ⟨⟨hcfg, hfreq, htree, hcode, hbw, ⟨hrem, hclosed⟩, hptree, hpcode⟩, hbusy⟩
    exact ⟨hcfg, hfreq, htree, hcode, hbw, hrem, hclosed, hptree, hpcode, hbusy⟩

theorem readerOk_closed : (⟨0x00#8, 0, true⟩ : BitReader).Ok := by simp [BitReader.Ok]

theorem readerOk_fresh : (⟨0x00#8, 0, false⟩ : BitReader).Ok := by simp [BitReader.Ok]

/-- R41, R270: the values of reset are safe. -/
theorem safeParts_reset {c : Config} (hc : c.Valid) :
    SafeParts c freqZero none none [] ⟨0x00#8, 0, true⟩ .idle where
  cfgValid := hc
  freqBounded := by simp
  treeOk := nofun
  codeOk := nofun
  bwShort := by simp
  readerOk := readerOk_closed
  payloadTree := nofun
  payloadCode := nofun

/-! ### What a command can do -/

/-- What `i`, run to its end, can have made of the state `s`: the configuration, the port and the record of the host
stay, OUT and IN keep their order (R59, R54), `ERR` goes with `ERRCODE` (R26), the phase moves along the tables (R204,
R221), and a safe state stays safe. -/
structure Effect (i : Instr) (s u : State) : Prop where
  cfg      : u.cfg = s.cfg
  cmdq     : u.cmdq = s.cmdq
  schedule : u.schedule = s.schedule
  reads    : u.reads = s.reads
  received : u.received = s.received
  out      : s.out <+: u.out
  input    : u.inq <:+ s.inq ∧ u.eos = s.eos ∨ restartsIn i = true ∧ u.inq = [] ∧ u.eos = false
  error    : (u.err = true ↔ u.errcode ≠ .noError) ∧ u.errcode ≠ .badBit
  phase    : u.fph = s.fph ∨ u.fph ∈ phaseMoves i s.fph
  safe     : s.Safe → u.Safe

section
variable {i : Instr} {s u : State}

/-- R251: a command starts from the cleared state. -/
theorem Effect.accept (i : Instr) (s : State) : Effect i s.accept s.accept where
  cfg := rfl
  cmdq := rfl
  schedule := rfl
  reads := rfl
  received := rfl
  out := List.prefix_rfl
  input := .inl ⟨List.suffix_rfl, rfl⟩
  error := by simp
  phase := .inl rfl
  safe := id

theorem Effect.complete (h : Effect i s.accept u) : Effect i s u.complete := ⟨h.cfg, h.cmdq, h.schedule, h.reads,
  h.received, h.out, h.input, h.error, h.phase, h.safe⟩

/-! The updates the rules are made of, each keeping `Effect`. -/

theorem Effect.withResult (h : Effect i s u) (v : Word) : Effect i s (u.withResult v) := { h with }

theorem Effect.setEnd (h : Effect i s u) : Effect i s u.setEnd := { h with }

theorem Effect.setSent (h : Effect i s u) (b : Bool) : Effect i s { u with sent := b } := { h with }

theorem Effect.setLen (h : Effect i s u) (len : LenTable) : Effect i s { u with len := len } := { h with }

theorem Effect.markSentinel (h : Effect i s u) (x : Symbol) : Effect i s (u.markSentinel x) := by
  unfold State.markSentinel
  split
  · exact h.setSent true
  · exact h

theorem Effect.setFreq (h : Effect i s u) {freq : FreqTable} (hfreq : s.Safe → ∀ a, entry freq a ≤ s.cfg.cntMax) :
    Effect i s { u with freq := freq } :=
  { h with safe := fun hs => { h.safe hs with freqBounded := h.cfg ▸ hfreq hs } }

theorem Effect.setTree (h : Effect i s u) {t : CodeTree} (ht : t.Ok) : Effect i s { u with tree := some t } :=
  { h with safe := fun hs => { h.safe hs with
      treeOk := fun _ he => Option.some.inj he ▸ ht
      payloadTree := fun _ => rfl } }

theorem Effect.setCode (h : Effect i s u) {c : CodeTable} (hc : s.Safe → CodeTable.Ok c) :
    Effect i s { u with code := some c } :=
  { h with safe := fun hs => { h.safe hs with
      codeOk := fun _ he => Option.some.inj he ▸ hc hs
      payloadCode := fun _ => rfl } }

theorem Effect.setReader (h : Effect i s u) {r : BitReader} (hr : s.Safe → r.Ok) : Effect i s { u with br := r } :=
  { h with safe := fun hs => { h.safe hs with readerOk := hr hs } }

theorem Effect.openReader (h : Effect i s u) : Effect i s u.openReader := h.setReader fun _ => readerOk_fresh

theorem Effect.closeReader (h : Effect i s u) : Effect i s u.closeReader := h.setReader fun _ => readerOk_closed

theorem Effect.setBw (h : Effect i s u) {x : Bits} (hx : s.Safe → x.length ≤ 7) : Effect i s { u with bw := x } :=
  { h with safe := fun hs => { h.safe hs with bwShort := hx hs } }

/-- R55: OUT grows at its end. -/
theorem Effect.outWriteAll (h : Effect i s u) (bs : List Byte) : Effect i s (u.outWriteAll bs) :=
  { h with out := h.out.trans (List.prefix_append _ _) }

theorem Effect.outWrite (h : Effect i s u) (b : Byte) : Effect i s (u.outWrite b) := h.outWriteAll [b]

/-- R108: at eight bits the BitWriter writes its byte out, so it never holds eight. -/
theorem Effect.bwPut (h : Effect i s u) (b : Bool) : Effect i s (u.bwPut b) := by
  unfold State.bwPut
  split
  · exact (h.outWrite _).setBw fun _ => Nat.zero_le 7
  case isFalse hlen =>
    refine h.setBw fun hs => ?_
    have := (h.safe hs).bwShort
    rw [List.length_append, List.length_singleton] at hlen ⊢
    omega

theorem Effect.enc (h : Effect i s u) (x : Bits) : Effect i s (u.enc x) := by
  induction x generalizing u with
  | nil => exact h
  | cons b x ih => exact ih (h.bwPut b)

theorem Effect.bwClose (h : Effect i s u) : Effect i s u.bwClose := by
  unfold State.bwClose
  split
  · exact (h.outWrite _).setBw fun _ => Nat.zero_le 7
  · exact h.setBw fun _ => Nat.zero_le 7

/-- R52, R53: bytes are taken from the front of IN. -/
theorem Effect.takeIn (h : Effect i s u) {q : List Byte} (hq : q <:+ u.inq) : Effect i s { u with inq := q } := by
  refine { h with input := ?_ }
  rcases h.input with ⟨hsuffix, heos⟩ | ⟨hrestarts, hempty, heos⟩
  · exact .inl ⟨hq.trans hsuffix, heos⟩
  · exact .inr ⟨hrestarts, List.suffix_nil.mp (hempty ▸ hq), heos⟩

theorem Effect.restartIn (h : Effect i s u) (hi : restartsIn i = true) : Effect i s u.restartIn :=
  { h with input := .inr ⟨hi, rfl, rfl⟩ }

/-- A move of the tables from the phase `q`, or none; into a payload phase, the payload's tree or code must be there. -/
theorem Effect.toPhase (h : Effect i s u) {q p : Phase} (hq : s.fph = q)
    (hmove : p = q ∨ p ∈ phaseMoves i q := by simp [phaseMoves])
    (htree : p = .rPayload → u.tree.isSome = true := by nofun)
    (hcode : p = .wPayload → u.code.isSome = true := by nofun) : Effect i s (u.toPhase p) :=
  { h with
    phase := hq ▸ hmove
    safe := fun hs => { h.safe hs with payloadTree := htree, payloadCode := hcode } }

/-- R252: `ERR` is set with an error code. -/
theorem Effect.report (h : Effect i s u) {e : ErrCode} (info : Word) (he : e ≠ .noError ∧ e ≠ .badBit) :
    Effect i s (u.report e info) :=
  { h with error := ⟨by simp [he.1], he.2⟩ }

/-! Reading. -/

theorem Effect.inRead (h : Effect i s u) {b : Byte} {t : State} (hr : inRead u = .byte b t) : Effect i s t := by
  rcases inRead_cases u with ⟨c, q, hq, hc⟩ | ⟨_, _, hc⟩ | ⟨_, _, hc⟩ <;> rw [hc] at hr <;> cases hr
  exact h.takeIn (hq ▸ List.suffix_cons _ _)

theorem Effect.takeBit (h : Effect i s u) (hclosed : u.br.closed = false) :
    Effect i s { u with br := { u.br with rem := u.br.rem - 1 } } := by
  refine h.setReader fun hs => ⟨?_, by simp [hclosed]⟩
  have := (h.safe hs).readerOk.1
  dsimp only
  omega

/-- R101: a bit comes from the byte held, or from the next byte of IN. -/
theorem Effect.brGet (h : Effect i s u) {b : Bool} {t : State} (hb : brGet u = .bit b t) : Effect i s t := by
  rcases brGet_cases u with ⟨_, hc⟩ | ⟨hopen, _, hc⟩ | ⟨_, _, c, q, hq, hc⟩ | ⟨_, _, _, _, hc⟩ | ⟨_, _, _, _, hc⟩ <;>
    rw [hc] at hb <;> cases hb
  · exact h.takeBit hopen
  · exact (h.takeIn (hq ▸ List.suffix_cons _ _)).setReader (r := ⟨c, 7, false⟩) fun _ => by simp [BitReader.Ok]

/-- R181: a walk only takes bits. -/
theorem Effect.walk (n : CodeTree) (h : Effect i s u) :
    (∀ x t, walk n u = .symbol x t → Effect i s t) ∧ ∀ t, walk n u = .ended t → Effect i s t := by
  induction n generalizing u with
  | leaf y => exact ⟨fun x t hw => by cases hw; exact h, fun t hw => by cases hw⟩
  | node l r ihl ihr =>
    cases hb : Machine.brGet u with
    | bit b v =>
      cases b with
      | true => simpa [Machine.walk, hb] using ihr (h.brGet hb)
      | false => simpa [Machine.walk, hb] using ihl (h.brGet hb)
    | atEnd => simpa [Machine.walk, hb] using h
    | hold => simp [Machine.walk, hb]

end

/-- A rule that runs to its end has no more than the effect of `i`. -/
def Ending.HasEffect (i : Instr) (s : State) : Ending → Prop
  | .done u => Effect i s u
  | .hold => True
  | .stuck _ => True

/-- A command that answers holds, or has no more than the effect of `i`. -/
def OutcomeHasEffect (i : Instr) (s : State) (o : Host.Outcome State Fault Refusal) : Prop :=
  ∀ t, o = .next t → t = s.held ∨ Effect i s t

section
variable {i : Instr} {s u : State}

theorem command_hasEffect {rule : State → Ending}
    (hrule : Effect i s.accept s.accept → (rule s.accept).HasEffect i s.accept) :
    OutcomeHasEffect i s (command rule s) := by
  intro t ht
  rcases command_next ht with ⟨u, hu, rfl⟩ | ⟨_, rfl⟩
  · have hdone := hrule (.accept i s)
    rw [hu] at hdone
    exact .inr hdone.complete
  · exact .inl rfl

theorem raise_hasEffect (h : Effect i s u) {e : ErrCode} {info : Word}
    (he : e ≠ .noError ∧ e ≠ .badBit := by decide) : (raise e info u).HasEffect i s := h.report info he

theorem raiseFatal_hasEffect (h : Effect i s u) {q : Phase} {e : ErrCode} {info : Word} (hq : s.fph = q)
    (he : e ≠ .noError ∧ e ≠ .badBit := by decide) (hmove : .fatal ∈ phaseMoves i q := by simp [phaseMoves]) :
    (raiseFatal e info u).HasEffect i s := (h.toPhase hq (.inr hmove)).report info he

theorem raiseEntry_hasEffect (h : Effect i s u) {q : Phase} {e : ErrCode} {info : Word} (hq : s.fph = q)
    (he : e ≠ .noError ∧ e ≠ .badBit := by decide) (hmove : .rEntry ∈ phaseMoves i q := by simp [phaseMoves]) :
    (raiseEntry e info u).HasEffect i s := (h.toPhase hq (.inr hmove)).report info he

theorem withSymbol_hasEffect {a : BitVec 9} {rule : Symbol → Ending} (h : Effect i s u)
    (hrule : ∀ x, (rule x).HasEffect i s) : (withSymbol a u rule).HasEffect i s := by
  by_cases ha : a.toNat < 257
  · rw [withSymbol_in ha]
    exact hrule _
  · rw [withSymbol_out ha]
    exact raise_hasEffect h

theorem inPhase_hasEffect {ps : List Phase} {rule : Ending} (h : Effect i s u)
    (hrule : u.fph ∈ ps → rule.HasEffect i s) : (inPhase ps u rule).HasEffect i s := by
  by_cases hp : u.fph ∈ ps
  · rw [inPhase_in hp]
    exact hrule hp
  · rw [inPhase_out hp]
    exact raise_hasEffect h

/-- A rule that lists one phase. -/
theorem inPhase_singleton_hasEffect {p : Phase} {rule : Ending} (h : Effect i s u)
    (hrule : u.fph = p → rule.HasEffect i s) : (inPhase [p] u rule).HasEffect i s :=
  inPhase_hasEffect h fun hp => hrule (List.mem_singleton.mp hp)

/-- R125: a counter that is not at its bound may count one more. -/
theorem countSymbol_le {f : FreqTable} {m : Nat} (hf : ∀ a, entry f a ≤ m) {x : Symbol} (hx : entry f x ≠ m)
    (a : Symbol) : entry (countSymbol f x) a ≤ m := by
  rw [entry_countSymbol]
  split
  · exact Nat.lt_of_le_of_ne (hf x) hx
  · exact hf a

/-! Reading a length table (R151, R228) and reading past a byte (R224) only take bytes. -/

theorem Effect.inReadTable_full (h : Effect i s u) {bs : List Byte} {t : State} (ht : inReadTable u = .full bs t) :
    Effect i s t := by
  rcases inReadTable_cases u with ⟨_, hr⟩ | ⟨_, _, hr⟩ | ⟨_, _, hr⟩ <;> rw [hr] at ht <;> cases ht
  exact h.takeIn (List.drop_suffix _ _)

theorem Effect.inReadTable_short (h : Effect i s u) {n : Nat} {t : State} (ht : inReadTable u = .short n t) :
    Effect i s t := by
  rcases inReadTable_cases u with ⟨_, hr⟩ | ⟨_, _, hr⟩ | ⟨_, _, hr⟩ <;> rw [hr] at ht <;> cases ht
  exact h.takeIn List.nil_suffix

theorem Effect.inReadPast_found (h : Effect i s u) {m : Byte} {t : State} (ht : inReadPast m u = .found t) :
    Effect i s t := by
  rcases inReadPast_cases m u with ⟨pre, post, hq, _, hr⟩ | ⟨_, _, hr⟩ | ⟨_, _, hr⟩ <;> rw [hr] at ht <;> cases ht
  exact h.takeIn (hq ▸ (List.suffix_cons m post).trans (List.suffix_append pre _))

theorem Effect.inReadPast_atEnd (h : Effect i s u) {m : Byte} {t : State} (ht : inReadPast m u = .atEnd t) :
    Effect i s t := by
  rcases inReadPast_cases m u with ⟨_, _, _, _, hr⟩ | ⟨_, _, hr⟩ | ⟨_, _, hr⟩ <;> rw [hr] at ht <;> cases ht
  exact h.takeIn List.nil_suffix

end

/-! #### The standalone commands -/

theorem execSrst_hasEffect (s : State) : OutcomeHasEffect .srst s (execSrst s) :=
  command_hasEffect fun h => { h with
    input := .inr ⟨rfl, rfl, rfl⟩
    error := ⟨by simp, by simp⟩
    phase := .inr (List.mem_singleton.mpr rfl)
    safe := fun hs => safeParts_reset hs.cfgValid }

theorem execBrGet_hasEffect (s : State) : OutcomeHasEffect .brGet s (execBrGet s) := by
  refine command_hasEffect fun h => ?_
  split
  case h_1 b t hb => exact (h.brGet hb).withResult _
  case h_2 => exact (h.withResult _).setEnd
  case h_3 => trivial

theorem execFreqInc_hasEffect (a : BitVec 9) (s : State) : OutcomeHasEffect (.freqInc a) s (execFreqInc a s) := by
  refine command_hasEffect fun h => withSymbol_hasEffect h fun x => ?_
  split
  · exact raise_hasEffect h
  case isFalse hx => exact h.setFreq fun hs => countSymbol_le hs.freqBounded hx

theorem execTreeBuild_hasEffect (s : State) : OutcomeHasEffect .treeBuild s (execTreeBuild s) := by
  refine command_hasEffect fun h => ?_
  obtain ⟨t, ht, hok⟩ := buildTree_ok s.accept.freq
  rw [ht]
  exact h.setTree hok

theorem execLenFromTree_hasEffect (s : State) : OutcomeHasEffect .lenFromTree s (execLenFromTree s) := by
  refine command_hasEffect fun h => ?_
  split
  · exact raise_hasEffect h
  · split
    · exact raise_hasEffect h
    · exact h.setLen _

theorem execTreeFromLen_hasEffect (s : State) : OutcomeHasEffect .treeFromLen s (execTreeFromLen s) := by
  refine command_hasEffect fun h => ?_
  split
  · exact raise_hasEffect h
  case h_2 t ht => exact h.setTree (recon_ok ht).1

theorem execLenLoad_hasEffect (s : State) : OutcomeHasEffect .lenLoad s (execLenLoad s) := by
  refine command_hasEffect fun h => ?_
  split
  case h_1 bs t ht => exact (h.inReadTable_full ht).setLen _
  case h_2 n t ht => exact raise_hasEffect (h.inReadTable_short ht).setEnd
  case h_3 => trivial

theorem execCodeGen_hasEffect (s : State) : OutcomeHasEffect .codeGen s (execCodeGen s) := by
  refine command_hasEffect fun h => ?_
  split
  · exact raise_hasEffect h
  case h_2 t ht =>
    split
    · exact raise_hasEffect h
    case h_2 hlong => exact h.setCode fun hs => codesOf_ok (hs.treeOk t ht) (length_codeOf_le_of_tooLong hlong)

theorem execCodeLen_hasEffect (a : BitVec 9) (s : State) : OutcomeHasEffect (.codeLen a) s (execCodeLen a s) := by
  refine command_hasEffect fun h => withSymbol_hasEffect h fun x => ?_
  split
  · exact raise_hasEffect h
  · exact h.withResult _

theorem execCodeBit_hasEffect (a : BitVec 9) (v : Byte) (s : State) :
    OutcomeHasEffect (.codeBit a v) s (execCodeBit a v s) := by
  refine command_hasEffect fun h => withSymbol_hasEffect h fun x => ?_
  split
  · exact raise_hasEffect h
  · split
    · exact raise_hasEffect h
    · exact h.withResult _

theorem execEncSym_hasEffect (a : BitVec 9) (s : State) : OutcomeHasEffect (.encSym a) s (execEncSym a s) := by
  refine command_hasEffect fun h => withSymbol_hasEffect h fun x => ?_
  split
  · exact raise_hasEffect h
  · exact h.enc _

theorem execEncEnd_hasEffect (s : State) : OutcomeHasEffect .encEnd s (execEncEnd s) := by
  refine command_hasEffect fun h => ?_
  split
  · exact raise_hasEffect h
  · exact (h.enc _).bwClose

theorem execDecSym_hasEffect (s : State) : OutcomeHasEffect .decSym s (execDecSym s) := by
  refine command_hasEffect fun h => ?_
  split
  · exact raise_hasEffect h
  · split
    case h_1 x t ht => exact (((h.walk _).1 x t ht).withResult _).markSentinel x
    case h_2 t ht => exact raise_hasEffect ((h.walk _).2 t ht).setEnd
    case h_3 => trivial

/-! #### The framer's write path -/

theorem execAwBegin_hasEffect (s : State) : OutcomeHasEffect .awBegin s (execAwBegin s) :=
  command_hasEffect fun h => inPhase_singleton_hasEffect h fun hp =>
    ((h.outWrite _).outWrite _).toPhase hp

theorem execAwPbyte_hasEffect (b : Byte) (s : State) : OutcomeHasEffect (.awPbyte b) s (execAwPbyte b s) := by
  refine command_hasEffect fun h => inPhase_hasEffect h fun _ => ?_
  split
  · exact raise_hasEffect h
  · split
    case isTrue hp => exact (h.outWrite b).toPhase hp
    · exact h.outWrite b

theorem execAwPend_hasEffect (s : State) : OutcomeHasEffect .awPend s (execAwPend s) := by
  refine command_hasEffect fun h => inPhase_hasEffect h fun hps => ?_
  simp only [List.mem_cons, List.not_mem_nil, or_false] at hps
  rcases hps with hp | hp | hp | hp <;> rw [hp]
  · exact (h.outWrite _).toPhase (p := .wManifest) hp
  · exact (h.outWrite _).toPhase (p := .wManifest) hp
  · exact (h.outWrite _).toPhase (p := .wBlocks) hp
  · exact (h.outWrite _).toPhase (p := .wFcount) hp

theorem execAwMend_hasEffect (s : State) : OutcomeHasEffect .awMend s (execAwMend s) :=
  command_hasEffect fun h => inPhase_singleton_hasEffect h fun hp =>
    (h.outWrite _).toPhase hp

theorem execAwDir_hasEffect (s : State) : OutcomeHasEffect .awDir s (execAwDir s) :=
  command_hasEffect fun h => inPhase_singleton_hasEffect h fun hp =>
    (h.outWrite _).toPhase hp

theorem execAwFile_hasEffect (s : State) : OutcomeHasEffect .awFile s (execAwFile s) :=
  command_hasEffect fun h => inPhase_singleton_hasEffect h fun hp =>
    ((h.outWrite _).toPhase hp).setFreq (by simp)

theorem execAwCount_hasEffect (b : Byte) (s : State) : OutcomeHasEffect (.awCount b) s (execAwCount b s) := by
  refine command_hasEffect fun h => inPhase_singleton_hasEffect h fun hp => ?_
  dsimp only [withByte]
  split
  · exact raiseFatal_hasEffect h hp
  case isFalse hx => exact h.setFreq fun hs => countSymbol_le hs.freqBounded hx

theorem execAwFilehdr_hasEffect (s : State) : OutcomeHasEffect .awFilehdr s (execAwFilehdr s) := by
  refine command_hasEffect fun h => inPhase_singleton_hasEffect h fun hp => ?_
  split
  · exact raiseFatal_hasEffect h hp
  case isFalse hsent =>
    split
    · exact raiseFatal_hasEffect h hp
    · trivial
    case h_3 len tree code hheader =>
      obtain ⟨htree, hcode⟩ := fileHeader_ok hheader
      have htables := (((h.outWriteAll len.toList).setFreq fun hs => countSymbol_le hs.freqBounded hsent).setLen len
        |>.setTree htree).setCode (c := code) fun _ => hcode
      exact (htables.toPhase (p := .wPayload) hp (hcode := fun _ => rfl)).setBw (x := [])
        fun _ => Nat.zero_le 7

theorem execAwSym_hasEffect (b : Byte) (s : State) : OutcomeHasEffect (.awSym b) s (execAwSym b s) := by
  refine command_hasEffect fun h => inPhase_singleton_hasEffect h fun hp => ?_
  dsimp only [withByte]
  split
  · exact raiseFatal_hasEffect h hp
  · exact h.enc _

theorem execAwFend_hasEffect (s : State) : OutcomeHasEffect .awFend s (execAwFend s) := by
  refine command_hasEffect fun h => inPhase_singleton_hasEffect h fun hp => ?_
  split
  · exact raiseFatal_hasEffect h hp
  · exact (h.enc _).bwClose.toPhase hp

theorem execAwEnd_hasEffect (s : State) : OutcomeHasEffect .awEnd s (execAwEnd s) :=
  command_hasEffect fun h => inPhase_singleton_hasEffect h fun hp => h.toPhase hp

/-! #### The framer's read path -/

theorem checkMagic_hasEffect {s u : State} (h : Effect .arMagic s u) (hp : s.fph = .idle) (c0 c1 : Byte) :
    (checkMagic c0 c1 u).HasEffect .arMagic s := by
  unfold checkMagic
  split
  · exact raiseFatal_hasEffect h hp
  · exact h.toPhase hp

theorem execArMagic_hasEffect (s : State) : OutcomeHasEffect .arMagic s (execArMagic s) := by
  refine command_hasEffect fun h => inPhase_singleton_hasEffect h fun hp => ?_
  split
  · trivial
  · exact raiseFatal_hasEffect h.setEnd hp
  case h_3 c0 t ht =>
    split
    · trivial
    · exact raiseFatal_hasEffect (h.inRead ht).setEnd hp
    case h_3 c1 u hu => exact checkMagic_hasEffect ((h.inRead ht).inRead hu) hp c0 c1

theorem execArMbyte_hasEffect (s : State) : OutcomeHasEffect .arMbyte s (execArMbyte s) := by
  refine command_hasEffect fun h => inPhase_singleton_hasEffect h fun hp => ?_
  split
  · trivial
  · exact raiseFatal_hasEffect h.setEnd hp
  case h_3 c t ht =>
    split
    · exact ((h.inRead ht).withResult _).toPhase hp
    · split <;> exact (h.inRead ht).withResult _

theorem execArSkipm_hasEffect (s : State) : OutcomeHasEffect .arSkipm s (execArSkipm s) := by
  refine command_hasEffect fun h => inPhase_singleton_hasEffect h fun hp => ?_
  split
  · trivial
  case h_2 t ht => exact raiseFatal_hasEffect (h.inReadPast_atEnd ht).setEnd hp
  case h_3 t ht => exact ((h.inReadPast_found ht).withResult _).toPhase hp

theorem execArEntry_hasEffect (s : State) : OutcomeHasEffect .arEntry s (execArEntry s) := by
  refine command_hasEffect fun h => inPhase_singleton_hasEffect h fun hp => ?_
  split
  · trivial
  · exact (h.setEnd.withResult _).toPhase hp
  case h_3 c t ht =>
    split
    · exact ((h.inRead ht).withResult _).toPhase hp
    · split
      · exact ((h.inRead ht).withResult _).toPhase hp
      · exact raiseFatal_hasEffect (h.inRead ht) hp

theorem execArPbyte_hasEffect (s : State) : OutcomeHasEffect .arPbyte s (execArPbyte s) := by
  refine command_hasEffect fun h => inPhase_hasEffect h fun hps => ?_
  have hp : s.accept.fph = .rDpath ∨ s.accept.fph = .rFpath := by simpa using hps
  split
  · trivial
  · rcases hp with hp | hp <;> exact raiseFatal_hasEffect h.setEnd hp
  case h_3 c t ht =>
    split
    · rcases hp with hp | hp <;> rw [hp]
      · exact ((h.inRead ht).withResult _).toPhase (p := .rEntry) hp
      · exact ((h.inRead ht).withResult _).toPhase (p := .rLens) hp
    · exact (h.inRead ht).withResult _

theorem execArFilehdr_hasEffect (s : State) : OutcomeHasEffect .arFilehdr s (execArFilehdr s) := by
  refine command_hasEffect fun h => inPhase_singleton_hasEffect h fun hp => ?_
  split
  · trivial
  case h_2 n t ht => exact raiseEntry_hasEffect (h.inReadTable_short ht).setEnd hp
  case h_3 bs t ht =>
    have hread := h.inReadTable_full ht
    split
    · exact raiseFatal_hasEffect hread hp
    case h_2 tree htree =>
      exact ((hread.openReader.setLen (tableOfBytes bs)).setTree (recon_ok htree).1).toPhase (p := .rPayload)
        hp (htree := fun _ => rfl)

theorem finishSymbol_effect {s u : State} (h : Effect .arSym s u) (hp : s.fph = .rPayload) (x : Symbol) :
    Effect .arSym s (finishSymbol x u) := by
  unfold finishSymbol
  split
  · exact ((h.withResult _).closeReader.toPhase (p := .rEntry) hp).setSent true
  · exact h.withResult _

theorem execArSym_hasEffect (s : State) : OutcomeHasEffect .arSym s (execArSym s) := by
  refine command_hasEffect fun h => inPhase_singleton_hasEffect h fun hp => ?_
  split
  · trivial
  · split
    · trivial
    case h_2 t ht =>
      exact raiseEntry_hasEffect ((h.walk _).2 t ht).setEnd.closeReader hp
    case h_3 x t ht => exact finishSymbol_effect ((h.walk _).1 x t ht) hp x

theorem execArEnd_hasEffect (s : State) : OutcomeHasEffect .arEnd s (execArEnd s) := by
  refine command_hasEffect fun h => inPhase_hasEffect h fun hps => ?_
  have hp : s.accept.fph = .rEntry ∨ s.accept.fph = .rDone := by simpa using hps
  rcases hp with hp | hp <;> exact (h.closeReader.restartIn rfl).toPhase hp

theorem execFrAbort_hasEffect (s : State) : OutcomeHasEffect .frAbort s (execFrAbort s) :=
  command_hasEffect fun h =>
    ((h.closeReader.restartIn rfl).toPhase rfl (.inr (List.mem_singleton.mpr rfl))).setBw (x := [])
      fun _ => Nat.zero_le 7

/-! #### All commands -/

/-- Every command that answers holds, or has no more than its effect. -/
theorem exec_hasEffect (i : Instr) (s : State) : OutcomeHasEffect i s (exec i s) := by
  unfold exec
  cases i with
  | nop => exact command_hasEffect id
  | srst => exact execSrst_hasEffect s
  | brOpen => exact command_hasEffect Effect.openReader
  | brGet => exact execBrGet_hasEffect s
  | brClose => exact command_hasEffect Effect.closeReader
  | bwPut t => exact command_hasEffect fun h => h.bwPut t
  | bwClose => exact command_hasEffect Effect.bwClose
  | freqClr => exact command_hasEffect fun h => h.setFreq (by simp)
  | freqInc a => exact execFreqInc_hasEffect a s
  | freqGet a => exact command_hasEffect fun h => withSymbol_hasEffect h fun _ => h.withResult _
  | treeBuild => exact execTreeBuild_hasEffect s
  | lenFromTree => exact execLenFromTree_hasEffect s
  | treeFromLen => exact execTreeFromLen_hasEffect s
  | lenGet a => exact command_hasEffect fun h => withSymbol_hasEffect h fun _ => h.withResult _
  | lenSet a v => exact command_hasEffect fun h => withSymbol_hasEffect h fun _ => h.setLen _
  | lenClr => exact command_hasEffect fun h => h.setLen _
  | lenEmit => exact command_hasEffect fun h => h.outWriteAll _
  | lenLoad => exact execLenLoad_hasEffect s
  | codeGen => exact execCodeGen_hasEffect s
  | codeLen a => exact execCodeLen_hasEffect a s
  | codeBit a v => exact execCodeBit_hasEffect a v s
  | encSym a => exact execEncSym_hasEffect a s
  | encEnd => exact execEncEnd_hasEffect s
  | decSym => exact execDecSym_hasEffect s
  | awBegin => exact execAwBegin_hasEffect s
  | awPbyte b => exact execAwPbyte_hasEffect b s
  | awPend => exact execAwPend_hasEffect s
  | awMend => exact execAwMend_hasEffect s
  | awDir => exact execAwDir_hasEffect s
  | awFile => exact execAwFile_hasEffect s
  | awCount b => exact execAwCount_hasEffect b s
  | awFilehdr => exact execAwFilehdr_hasEffect s
  | awSym b => exact execAwSym_hasEffect b s
  | awFend => exact execAwFend_hasEffect s
  | awEnd => exact execAwEnd_hasEffect s
  | arMagic => exact execArMagic_hasEffect s
  | arMbyte => exact execArMbyte_hasEffect s
  | arSkipm => exact execArSkipm_hasEffect s
  | arEntry => exact execArEntry_hasEffect s
  | arPbyte => exact execArPbyte_hasEffect s
  | arFilehdr => exact execArFilehdr_hasEffect s
  | arSym => exact execArSym_hasEffect s
  | arEnd => exact execArEnd_hasEffect s
  | frAbort => exact execFrAbort_hasEffect s

/-! ### The invariant over every step -/

/-- R74: a rejected word changes nothing but the report. -/
theorem rejectWord_eq (e : DecodeError) (s : State) : ∃ c info, rejectWord e s = .next (s.failed c info) := by
  cases e with
  | illegalCmd w => exact ⟨.illegalCmd, w, rfl⟩
  | symbolRange a => exact ⟨.symbolRange, a.setWidth 32, rfl⟩

/-- The core's word, whether it decodes or not, keeps the port and keeps a safe state safe. -/
theorem runWord_keeps {w : Word} {s t : State} (h : runWord w s = .next t) :
    t.cmdq = s.cmdq ∧ (s.Safe → t.Safe) := by
  cases hdecode : decode w with
  | ok i =>
    rw [runWord_ok hdecode] at h
    rcases exec_hasEffect i s t h with rfl | heffect
    · exact ⟨rfl, id⟩
    · exact ⟨heffect.cmdq, heffect.safe⟩
  | error e =>
    obtain ⟨c, info, hreject⟩ := rejectWord_eq e s
    rw [runWord_error hdecode, hreject] at h
    cases h
    exact ⟨rfl, id⟩

theorem retire_inv {s : State} (hsafe : s.Safe) (hcmdq : s.cmdq ≠ []) : s.retire.Inv := by
  rw [State.inv_iff]
  unfold State.retire
  split
  · exact ⟨hsafe, fun _ => hcmdq⟩
  case isFalse hbusy => exact ⟨hsafe, fun h => absurd h hbusy⟩

theorem coreStep_inv {s t : State} (hinv : s.Inv) (h : coreStep s = .next t) : t.Inv := by
  cases hcmdq : s.cmdq with
  | nil =>
    rw [coreStep_idle hcmdq] at h
    cases h
    exact hinv
  | cons w rest =>
    obtain ⟨hsafe, _⟩ := s.inv_iff.mp hinv
    cases hrun : runWord w s with
    | next u =>
      rw [coreStep_next hcmdq hrun] at h
      cases h
      obtain ⟨hport, hkeeps⟩ := runWord_keeps hrun
      exact retire_inv (hkeeps hsafe) (by simp [hport, hcmdq])
    | fault r =>
      rw [coreStep_fault hcmdq hrun] at h
      cases h
    | refused r => simp [coreStep, hcmdq, hrun] at h

theorem writeRegister_inv {s : State} (hinv : s.Inv) (off : Nat) (v : Word) : (s.writeRegister off v).Inv := by
  unfold State.writeRegister
  split
  · exact (State.inv_iff _).mpr ⟨(s.inv_iff.mp hinv).1, fun _ => by simp⟩
  · exact hinv

theorem hardReset_inv {s : State} (hinv : s.Inv) : s.hardReset.Inv :=
  (State.inv_iff _).mpr ⟨safeParts_reset hinv.cfgValid, nofun⟩

/-- Of the host's moves only a write and hardware reset touch a field of the invariant. -/
theorem hostStep_inv {m : HostMove} {s t : State} (hinv : s.Inv) (h : hostStep m s = .next t) : t.Inv := by
  cases m with
  | read width off =>
    simp only [hostStep, hostRead] at h
    split at h <;> cases h
    exact { hinv with }
  | write width off v =>
    simp only [hostStep, hostWrite] at h
    split at h <;> cases h
    exact writeRegister_inv hinv off v
  | push b =>
    simp only [hostStep, hostPush] at h
    split at h <;> cases h
    exact { hinv with }
  | setEos =>
    simp only [hostStep, hostSetEos] at h
    split at h <;> cases h
    exact { hinv with }
  | drain =>
    simp only [hostStep, hostDrain] at h
    split at h <;> cases h
    · exact hinv
    · exact { hinv with }
  | hardReset =>
    cases h
    exact hardReset_inv hinv

/-- Settles O17: the schedule is no field of the invariant; a core step keeps it by the effect every command has, and a
host step by the host's moves. -/
theorem everyStepKeepsTheInvariant : Obligations.EveryStepKeepsTheInvariant := by
  unfold Obligations.EveryStepKeepsTheInvariant
  intro s t hinv hstep
  have hrest : ∀ moves, State.Inv { s with schedule := moves } := fun _ => { hinv with }
  unfold step at hstep
  split at hstep
  · exact coreStep_inv hinv hstep
  case h_2 rest _ => exact coreStep_inv (hrest rest) hstep
  case h_3 m rest _ => exact hostStep_inv (hrest rest) hstep

/-! ### What every command keeps -/

/-- Settles O9: a command that holds changes nothing but `BUSY`, and the effect of one that ends names the fields. -/
theorem commandsKeepStreamOrder : Obligations.CommandsKeepStreamOrder := by
  unfold Obligations.CommandsKeepStreamOrder
  intro i s t hexec
  rcases exec_hasEffect i s t hexec with rfl | h
  · exact ⟨rfl, rfl, rfl, rfl, rfl, List.prefix_rfl, .inl ⟨List.suffix_rfl, rfl⟩⟩
  · exact ⟨h.cfg, h.cmdq, h.schedule, h.reads, h.received, h.out, h.input⟩

/-- Settles O11: a completed command did not hold, and its effect relates `ERR` and `ERRCODE`. -/
theorem errAndErrcodeAgree : Obligations.ErrAndErrcodeAgree := by
  unfold Obligations.ErrAndErrcodeAgree
  intro i s t hexec hbusy
  rcases exec_hasEffect i s t hexec with rfl | h
  · cases hbusy
  · exact h.error

/-- Settles O13: a command that holds keeps the phase, and the effect of one that ends follows the tables. -/
theorem phasesMoveAlongTheTables : Obligations.PhasesMoveAlongTheTables := by
  unfold Obligations.PhasesMoveAlongTheTables
  intro i s t hexec
  rcases exec_hasEffect i s t hexec with rfl | h
  · exact .inl rfl
  · exact h.phase

/-! ### The core's step and reset -/

/-- With no move left, or with its own next, it is the core's turn (log entries 3 and 4). -/
theorem step_of_coreTurn {s : State} {moves : List Move}
    (h : s.schedule = [] ∧ moves = [] ∨ s.schedule = .core :: moves) :
    step s = coreStep { s with schedule := moves } := by
  rcases h with ⟨hnone, rfl⟩ | hcore
  · have hsame : { s with schedule := [] } = s := by rw [← hnone]
    rw [hsame, step, hnone]
  · rw [step, hcore]

/-- Settles O5: on the core's turn the step is `coreStep`, which runs the decoded command and then retires it. -/
theorem stepRunsTheDecodedCommand : Obligations.StepRunsTheDecodedCommand := by
  unfold Obligations.StepRunsTheDecodedCommand
  intro s w rest i hcmdq hdecode moves hturn
  have hstep := step_of_coreTurn hturn
  have hrun : ∀ o, exec i { s with schedule := moves } = o → runWord w { s with schedule := moves } = o :=
    fun o ho => (runWord_ok hdecode _).trans ho
  refine ⟨fun t ht hbusy => ?_, fun t ht hbusy => ?_, fun r hr => ?_⟩
  · have hport : t.cmdq = w :: rest := (runWord_keeps (hrun _ ht)).1.trans hcmdq
    rw [hstep, coreStep_next (s := { s with schedule := moves }) hcmdq (hrun _ ht)]
    simp [State.retire, hbusy, hport]
  · rw [hstep, coreStep_next (s := { s with schedule := moves }) hcmdq (hrun _ ht)]
    simp [State.retire, hbusy]
  · rw [hstep, coreStep_fault (s := { s with schedule := moves }) hcmdq (hrun _ hr)]

/-- R41: no flag is set, and the phase is `IDLE`. -/
theorem statusWord_resetWith (c : Config) : (State.resetWith c).statusWord = 0x00000000#32 := by
  have hfatal : (State.resetWith c).fatalFlag = false := rfl
  rw [State.statusWord, hfatal]
  simp [State.resetWith, flagBit, Phase.code, State.cvFlag, State.tvFlag]

/-- R41: a closed, empty reader and an empty writer. -/
theorem bstateWord_resetWith (c : Config) : (State.resetWith c).bstateWord = 0x10000000#32 := by
  simp [State.bstateWord, State.resetWith, bitsValue, flagBit]

/-- Settles O15: each value is read off the reset state. -/
theorem resetHoldsTheSpecValues : Obligations.ResetHoldsTheSpecValues := by
  unfold Obligations.ResetHoldsTheSpecValues
  intro c
  exact ⟨statusWord_resetWith c, rfl, rfl, bstateWord_resetWith c, rfl, rfl, rfl, rfl, rfl, rfl, entry_freqZero, rfl,
    entry_lenZero, rfl, rfl, rfl, rfl, rfl, rfl, rfl, rfl, rfl⟩

/-- Settles O16: the values of reset are safe, and the port is not busy. -/
theorem resetStateIsSafe : Obligations.ResetStateIsSafe := by
  unfold Obligations.ResetStateIsSafe
  intro c hc
  exact (State.inv_iff _).mpr ⟨safeParts_reset hc, nofun⟩

/-- Settles O25: hardware reset writes every field that is not the configuration or the record of the host. -/
theorem hardResetGivesTheResetState : Obligations.HardResetGivesTheResetState := by
  unfold Obligations.HardResetGivesTheResetState
  intro s moves hschedule
  rw [step, hschedule]
  rfl

/-! ### The host's side -/

theorem accessDefined_iff (width off : Nat) :
    accessDefined width off = true ↔ width = 32 ∧ off % 4 = 0 ∧ off < 64 := by
  simp [accessDefined, and_assoc]

theorem hostWrite_cmd (v : Word) (s : State) : hostStep (.write 32 0 v) s = .next (s.issue v) := rfl

/-- Settles O21: an access goes by whether it is defined, and of the registers only `CMD` takes a write. -/
theorem hostAccessesFollowTheWindow : Obligations.HostAccessesFollowTheWindow := by
  unfold Obligations.HostAccessesFollowTheWindow
  intro s width off v
  refine ⟨fun hundefined => ?_, fun hwidth haligned hinside => ?_, hostWrite_cmd v s⟩
  · rw [← accessDefined_iff] at hundefined
    simp [hostStep, hostRead, hostWrite, hundefined]
  · have hdefined := (accessDefined_iff width off).mpr ⟨hwidth, haligned, hinside⟩
    refine ⟨by simp [hostStep, hostRead, hdefined], fun hoff => ?_⟩
    simp [hostStep, hostWrite, hdefined, State.writeRegister, hoff]

theorem run_succ_of_step {s u : State} (h : step s = .next u) (k : Nat) :
    Host.Core.run core (k + 1) s = Host.Core.run core k u := by
  have hcore : core.step s = .next u := h
  simp only [Host.Core.run, hcore]

/-- Settles O22: by induction on the words, each write putting its word behind those that wait. -/
theorem commandWordsKeepTheirOrder : Obligations.CommandWordsKeepTheirOrder := by
  unfold Obligations.CommandWordsKeepTheirOrder
  intro s ws moves hschedule
  induction ws generalizing s with
  | nil => exact ⟨s, rfl, by simp, hschedule⟩
  | cons w ws ih =>
    let rest := ws.map (fun w => Move.host (.write 32 0 w)) ++ moves
    have hstep : step s = .next (State.issue { s with schedule := rest } w) := by
      rw [step, hschedule]
      rfl
    obtain ⟨t, hrun, hcmdq, hmoves⟩ := ih (State.issue { s with schedule := rest } w) rfl
    exact ⟨t, (run_succ_of_step hstep ws.length).trans hrun, by simpa using hcmdq, hmoves⟩

/-! ### The register window -/

/-- R24, field by field. -/
theorem statusWord_fields (s : State) :
    let w := s.statusWord
    w.getLsbD 0 = s.busy ∧ w.getLsbD 1 = s.err ∧ w.getLsbD 2 = decide (s.fph = .fatal) ∧ w.getLsbD 3 = s.endf ∧
      w.getLsbD 4 = s.sent ∧ w.getLsbD 5 = s.tree.isSome ∧ w.getLsbD 6 = s.code.isSome ∧
      w.extractLsb' 7 5 = 0#5 ∧ w.extractLsb' 12 4 = s.fph.code ∧ w.extractLsb' 16 16 = 0#16 := by
  simp (disch := decide) only [State.statusWord, flagBit, BitVec.getLsbD_append, BitVec.getLsbD_ofBool,
    BitVec.extractLsb'_append_eq_of_le, BitVec.extractLsb'_append_eq_of_add_le, BitVec.extractLsb'_eq_self,
    Nat.reduceSub, Nat.reduceLT, reduceIte, decide_true, Bool.true_and, and_true, true_and]
  exact ⟨rfl, rfl, rfl⟩

/-- R27, field by field. -/
theorem bstateWord_fields (s : State) :
    let w := s.bstateWord
    (∀ i < 8, w.getLsbD i = (bitsValue s.bw).testBit i) ∧ w.extractLsb' 8 3 = BitVec.ofNat 3 s.bw.length ∧
      w.extractLsb' 11 5 = 0#5 ∧ w.extractLsb' 16 8 = s.br.buf ∧ w.extractLsb' 24 4 = BitVec.ofNat 4 s.br.rem ∧
      w.getLsbD 28 = s.br.closed ∧ w.extractLsb' 29 3 = 0#3 := by
  refine ⟨fun i hi => ?_, ?_⟩
  · have hacc : s.bstateWord.getLsbD i = (BitVec.ofNat 8 (bitsValue s.bw)).getLsbD i :=
      BitVec.getLsbD_append.trans (if_pos hi)
    rw [hacc, BitVec.getLsbD_ofNat]
    simp [hi]
  · simp (disch := decide) only [State.bstateWord, flagBit, BitVec.getLsbD_append, BitVec.getLsbD_ofBool,
      BitVec.extractLsb'_append_eq_of_le, BitVec.extractLsb'_append_eq_of_add_le, BitVec.extractLsb'_eq_self,
      Nat.reduceSub, Nat.reduceLT, reduceIte, decide_true, Bool.true_and, and_self]

/-- R28, field by field. -/
theorem config0Word_fields (c : Config) :
    let w := config0Word c
    w.extractLsb' 0 8 = c.magic0 ∧ w.extractLsb' 8 8 = c.magic1 ∧ w.extractLsb' 16 8 = c.tagDir ∧
      w.extractLsb' 24 8 = c.tagFile := by
  simp (disch := decide) only [config0Word, BitVec.extractLsb'_append_eq_of_le,
    BitVec.extractLsb'_append_eq_of_add_le, BitVec.extractLsb'_eq_self, Nat.reduceSub, and_self]

/-- R28, field by field. -/
theorem config1Word_fields (c : Config) :
    let w := config1Word c
    w.extractLsb' 0 8 = c.mend ∧ w.extractLsb' 8 6 = BitVec.ofNat 6 c.cntW ∧ w.extractLsb' 14 18 = 0#18 := by
  simp (disch := decide) only [config1Word, BitVec.extractLsb'_append_eq_of_le,
    BitVec.extractLsb'_append_eq_of_add_le, BitVec.extractLsb'_eq_self, Nat.reduceSub, and_self]

/-- R28: `CNT_MAX` fits its register. -/
theorem toNat_cntMaxWord {c : Config} (hc : c.cntW ≤ 32) : (cntMaxWord c).toNat = c.cntMax := by
  have hpow : 2 ^ c.cntW ≤ 2 ^ 32 := Nat.pow_le_pow_right (by decide) hc
  rw [cntMaxWord, BitVec.toNat_ofNat, Config.cntMax]
  exact Nat.mod_eq_of_lt (by omega)

theorem bitsValue_append_singleton (x : Bits) (b : Bool) : bitsValue (x ++ [b]) = 2 * bitsValue x + b.toNat := by
  simp [bitsValue]

/-- R33: bit `j` of a string's value is the bit `j` places before its last. -/
theorem testBit_bitsValue (x : Bits) (j : Nat) :
    (bitsValue x).testBit j = if j < x.length then x[x.length - 1 - j]?.getD false else false := by
  induction x using List.reverseRecOn generalizing j with
  | nil => simp [bitsValue]
  | append_singleton x b ih =>
    rw [bitsValue_append_singleton]
    cases j with
    | zero => cases b <;> simp [Nat.testBit_zero]
    | succ j =>
      have hhalf : (2 * bitsValue x + b.toNat) / 2 = bitsValue x := by have := b.toNat_lt; omega
      rw [Nat.testBit_succ, hhalf, ih]
      by_cases hj : j < x.length
      · have hindex : (x ++ [b]).length - 1 - (j + 1) = x.length - 1 - j := by simp; omega
        rw [hindex, List.getElem?_append_left (by omega)]
        simp [hj]
      · simp [hj]

theorem readRegister_reserved (s : State) {off : Nat} (h : 0x20 ≤ off) : s.readRegister off = 0#32 := by
  have hoff : ∀ n < 0x20, off ≠ n := fun n hn => by omega
  simp [State.readRegister, hoff]

/-- Settles O20: each register read is one of the words whose fields are above. -/
theorem registerWindowReadsItsFields : Obligations.RegisterWindowReadsItsFields := by
  unfold Obligations.RegisterWindowReadsItsFields
  intro s hbw hrem hvalid
  obtain ⟨hacc, hcnt, hbwReserved, hbuf, hbrRem, hclosed, hbrReserved⟩ := bstateWord_fields s
  obtain ⟨hmend, hcntW, hconfigReserved⟩ := config1Word_fields s.cfg
  have hcntWidth : s.cfg.cntW ≤ 32 := hvalid.2.1
  refine ⟨rfl, statusWord_fields s, ?_, rfl, ?_, ⟨?_, ?_, ?_, hbwReserved, hbuf, ?_, hclosed, hbrReserved⟩,
    config0Word_fields s.cfg, ⟨hmend, ?_, hconfigReserved⟩, toNat_cntMaxWord hcntWidth,
    fun off hoff _ => readRegister_reserved s hoff⟩
  · cases s.fph <;> decide
  · change (s.errcode, s.errcode.code.setWidth 32) ∈ _
    cases s.errcode <;> decide
  · intro i b hb
    have hi : i < s.bw.length := (List.getElem?_eq_some_iff.mp hb).1
    have hindex : s.bw.length - 1 - (s.bw.length - 1 - i) = i := by omega
    have hbit := testBit_bitsValue s.bw (s.bw.length - 1 - i)
    rw [hindex, hb, if_pos (by omega)] at hbit
    exact (hacc _ (by omega)).trans hbit
  · intro i hlen hi
    exact (hacc i hi).trans ((testBit_bitsValue s.bw i).trans (if_neg (by omega)))
  · change (s.bstateWord.extractLsb' 8 3).toNat = _
    rw [hcnt, BitVec.toNat_ofNat]
    exact Nat.mod_eq_of_lt (by omega)
  · change (s.bstateWord.extractLsb' 24 4).toNat = _
    rw [hbrRem, BitVec.toNat_ofNat]
    exact Nat.mod_eq_of_lt (by omega)
  · change ((config1Word s.cfg).extractLsb' 8 6).toNat = _
    rw [hcntW, BitVec.toNat_ofNat]
    exact Nat.mod_eq_of_lt (by omega)

end Sys2Proof.Machine

/-! ## The streams: when a command holds, and the order of the bytes -/

namespace Sys2Proof.Machine

/-! ### A command that holds -/

/-- A command that ends clears `BUSY` (R251), so one that answers with `BUSY` set has reached `HOLD`. -/
theorem command_busy {rule : State → Ending} {s t : State} (h : command rule s = .next t) (hbusy : t.busy = true) :
    rule s.accept = .hold ∧ t = s.held := by
  rcases command_next h with ⟨u, _, rfl⟩ | hhold
  · cases hbusy
  · exact hhold

/-- Settles O7: every command is one `command`, and that answers `BUSY` only from `HOLD`. -/
theorem holdingCommandChangesOnlyBusy : Obligations.HoldingCommandChangesOnlyBusy := by
  unfold Obligations.HoldingCommandChangesOnlyBusy
  intro i s t hexec hbusy
  obtain ⟨rule, hrule⟩ := exec_is_command i
  rw [hrule] at hexec
  exact (command_busy hexec hbusy).2

/-! ### Reading reaches `HOLD` only while IN has not ended -/

theorem eos_of_inRead_hold {s : State} (h : inRead s = .hold) : s.eos = false := by
  rcases inRead_cases s with ⟨_, _, _, hr⟩ | ⟨_, _, hr⟩ | ⟨_, he, hr⟩
  · simp [hr] at h
  · simp [hr] at h
  · exact he

/-- A byte read leaves the mark. -/
theorem inRead_byte_eos {s t : State} {b : Byte} (h : inRead s = .byte b t) : t.eos = s.eos := by
  rcases inRead_cases s with ⟨_, _, _, hr⟩ | ⟨_, _, hr⟩ | ⟨_, _, hr⟩ <;> rw [hr] at h <;> cases h
  rfl

theorem eos_of_inReadTable_hold {s : State} (h : inReadTable s = .hold) : s.eos = false := by
  rcases inReadTable_cases s with ⟨_, hr⟩ | ⟨_, _, hr⟩ | ⟨_, he, hr⟩
  · simp [hr] at h
  · simp [hr] at h
  · exact he

theorem eos_of_inReadPast_hold {m : Byte} {s : State} (h : inReadPast m s = .hold) : s.eos = false := by
  rcases inReadPast_cases m s with ⟨_, _, _, _, hr⟩ | ⟨_, _, hr⟩ | ⟨_, he, hr⟩
  · simp [hr] at h
  · simp [hr] at h
  · exact he

theorem eos_of_brGet_hold {s : State} (h : brGet s = .hold) : s.eos = false := by
  rcases brGet_cases s with ⟨_, hr⟩ | ⟨_, _, hr⟩ | ⟨_, _, _, _, _, hr⟩ | ⟨_, _, _, _, hr⟩ | ⟨_, _, _, he, _⟩
  · simp [hr] at h
  · simp [hr, takeBit] at h
  · simp [hr] at h
  · simp [hr] at h
  · exact he

/-- A bit read leaves the mark. -/
theorem brGet_bit_eos {s t : State} {b : Bool} (h : brGet s = .bit b t) : t.eos = s.eos := by
  rcases brGet_cases s with ⟨_, hr⟩ | ⟨_, _, hr⟩ | ⟨_, _, _, _, _, hr⟩ | ⟨_, _, _, _, hr⟩ | ⟨_, _, _, _, hr⟩ <;>
    rw [hr] at h <;> cases h
  · rfl
  · rfl

theorem eos_of_walk_hold {n : CodeTree} {s : State} (h : walk n s = .hold) : s.eos = false := by
  induction n generalizing s with
  | leaf x => cases h
  | node l r ihl ihr =>
    cases hb : brGet s with
    | bit b t =>
      rw [← brGet_bit_eos hb]
      cases b with
      | true => exact ihr (by simpa [walk, hb] using h)
      | false => exact ihl (by simpa [walk, hb] using h)
    | atEnd => simp [walk, hb] at h
    | hold => exact eos_of_brGet_hold hb

/-! ### Which commands hold -/

/-- A rule of `i` reaches `HOLD` only when `i` reads IN (R64) and IN has not ended. -/
def Ending.HoldsForInput (i : Instr) (s : State) : Ending → Prop
  | .done _ => True
  | .hold => s.eos = false ∧ readsIn i = true
  | .stuck _ => True

/-- A command `i` answers with `BUSY` set only when it reads IN (R64) and IN has not ended. -/
def OutcomeHoldsForInput (i : Instr) (s : State) (o : Host.Outcome State Fault Refusal) : Prop :=
  ∀ t, o = .next t → t.busy = true → s.eos = false ∧ readsIn i = true

section
variable {i : Instr} {s : State}

theorem command_holdsForInput {rule : State → Ending} (hrule : (rule s.accept).HoldsForInput i s.accept) :
    OutcomeHoldsForInput i s (command rule s) := by
  intro t ht hbusy
  rw [(command_busy ht hbusy).1] at hrule
  exact hrule

theorem withSymbol_holdsForInput {a : BitVec 9} {u : State} {rule : Symbol → Ending}
    (hrule : ∀ x, (rule x).HoldsForInput i s) : (withSymbol a u rule).HoldsForInput i s := by
  by_cases ha : a.toNat < 257
  · rw [withSymbol_in ha]
    exact hrule _
  · rw [withSymbol_out ha]
    trivial

theorem inPhase_holdsForInput {ps : List Phase} {u : State} {rule : Ending} (hrule : rule.HoldsForInput i s) :
    (inPhase ps u rule).HoldsForInput i s := by
  by_cases hp : u.fph ∈ ps
  · rwa [inPhase_in hp]
  · rw [inPhase_out hp]
    trivial

end

/-! The commands that read IN. -/

theorem execBrGet_holdsForInput (s : State) : OutcomeHoldsForInput .brGet s (execBrGet s) := by
  refine command_holdsForInput ?_
  split
  · trivial
  · trivial
  case h_3 hb => exact ⟨eos_of_brGet_hold hb, rfl⟩

theorem execDecSym_holdsForInput (s : State) : OutcomeHoldsForInput .decSym s (execDecSym s) := by
  refine command_holdsForInput ?_
  split
  · trivial
  · split
    · trivial
    · trivial
    case h_3 hw => exact ⟨eos_of_walk_hold hw, rfl⟩

theorem execLenLoad_holdsForInput (s : State) : OutcomeHoldsForInput .lenLoad s (execLenLoad s) := by
  refine command_holdsForInput ?_
  split
  · trivial
  · trivial
  case h_3 ht => exact ⟨eos_of_inReadTable_hold ht, rfl⟩

/-- The second byte of the magic waits for the same stream as the first. -/
theorem execArMagic_holdsForInput (s : State) : OutcomeHoldsForInput .arMagic s (execArMagic s) := by
  refine command_holdsForInput (inPhase_holdsForInput ?_)
  split
  case h_1 hr => exact ⟨eos_of_inRead_hold hr, rfl⟩
  · trivial
  case h_3 c0 t hr =>
    split
    case h_1 hr' => exact ⟨(inRead_byte_eos hr).symm.trans (eos_of_inRead_hold hr'), rfl⟩
    · trivial
    · unfold checkMagic
      split <;> trivial

theorem execArMbyte_holdsForInput (s : State) : OutcomeHoldsForInput .arMbyte s (execArMbyte s) := by
  refine command_holdsForInput (inPhase_holdsForInput ?_)
  split
  case h_1 hr => exact ⟨eos_of_inRead_hold hr, rfl⟩
  · trivial
  · split
    · trivial
    · split <;> trivial

theorem execArSkipm_holdsForInput (s : State) : OutcomeHoldsForInput .arSkipm s (execArSkipm s) := by
  refine command_holdsForInput (inPhase_holdsForInput ?_)
  split
  case h_1 hr => exact ⟨eos_of_inReadPast_hold hr, rfl⟩
  · trivial
  · trivial

theorem execArEntry_holdsForInput (s : State) : OutcomeHoldsForInput .arEntry s (execArEntry s) := by
  refine command_holdsForInput (inPhase_holdsForInput ?_)
  split
  case h_1 hr => exact ⟨eos_of_inRead_hold hr, rfl⟩
  · trivial
  · split
    · trivial
    · split <;> trivial

theorem execArPbyte_holdsForInput (s : State) : OutcomeHoldsForInput .arPbyte s (execArPbyte s) := by
  refine command_holdsForInput (inPhase_holdsForInput ?_)
  split
  case h_1 hr => exact ⟨eos_of_inRead_hold hr, rfl⟩
  · trivial
  · split <;> trivial

theorem execArFilehdr_holdsForInput (s : State) : OutcomeHoldsForInput .arFilehdr s (execArFilehdr s) := by
  refine command_holdsForInput (inPhase_holdsForInput ?_)
  split
  case h_1 hr => exact ⟨eos_of_inReadTable_hold hr, rfl⟩
  · trivial
  · split <;> trivial

theorem execArSym_holdsForInput (s : State) : OutcomeHoldsForInput .arSym s (execArSym s) := by
  refine command_holdsForInput (inPhase_holdsForInput ?_)
  split
  · trivial
  · split
    case h_1 hw => exact ⟨eos_of_walk_hold hw, rfl⟩
    · trivial
    · trivial

/-- The rules of the commands that do not read IN have no `HOLD` on any branch. -/
theorem exec_holdsForInput (i : Instr) (s : State) : OutcomeHoldsForInput i s (exec i s) := by
  unfold exec
  cases i with
  | nop | srst | brOpen | brClose | bwPut _ | bwClose | freqClr | treeBuild | lenClr | lenEmit | frAbort =>
    exact command_holdsForInput trivial
  | freqGet _ | lenGet _ | lenSet _ _ => exact command_holdsForInput (withSymbol_holdsForInput fun _ => trivial)
  | awBegin | awPend | awMend | awDir | awFile | awEnd | arEnd =>
    exact command_holdsForInput (inPhase_holdsForInput trivial)
  | treeFromLen | encEnd =>
    refine command_holdsForInput ?_
    split <;> trivial
  | lenFromTree | codeGen =>
    refine command_holdsForInput ?_
    split
    · trivial
    · split <;> trivial
  | freqInc _ | codeLen _ | encSym _ =>
    refine command_holdsForInput (withSymbol_holdsForInput fun _ => ?_)
    split <;> trivial
  | codeBit _ _ =>
    refine command_holdsForInput (withSymbol_holdsForInput fun _ => ?_)
    split
    · trivial
    · split <;> trivial
  | awPbyte _ | awFend =>
    refine command_holdsForInput (inPhase_holdsForInput ?_)
    split <;> trivial
  | awCount _ | awSym _ =>
    refine command_holdsForInput (inPhase_holdsForInput ?_)
    dsimp only [withByte]
    split <;> trivial
  | awFilehdr =>
    refine command_holdsForInput (inPhase_holdsForInput ?_)
    split
    · trivial
    · split <;> trivial
  | brGet => exact execBrGet_holdsForInput s
  | decSym => exact execDecSym_holdsForInput s
  | lenLoad => exact execLenLoad_holdsForInput s
  | arMagic => exact execArMagic_holdsForInput s
  | arMbyte => exact execArMbyte_holdsForInput s
  | arSkipm => exact execArSkipm_holdsForInput s
  | arEntry => exact execArEntry_holdsForInput s
  | arPbyte => exact execArPbyte_holdsForInput s
  | arFilehdr => exact execArFilehdr_holdsForInput s
  | arSym => exact execArSym_holdsForInput s

/-- Settles O8: the ten commands that read IN hold where a read of theirs does, and no other command's rule holds. -/
theorem commandsHoldOnlyForInput : Obligations.CommandsHoldOnlyForInput := by
  unfold Obligations.CommandsHoldOnlyForInput
  exact exec_holdsForInput

/-! ### The order of the emitted bytes -/

/-- R59: a command drains nothing and writes OUT at its end. -/
theorem Effect.emitted_prefix {i : Instr} {s u : State} (h : Effect i s u) : s.emitted <+: u.emitted := by
  unfold State.emitted
  rw [h.received]
  exact (List.prefix_append_right_inj _).mpr h.out

theorem runWord_emitted_prefix {w : Word} {s t : State} (h : runWord w s = .next t) : s.emitted <+: t.emitted := by
  cases hdecode : decode w with
  | ok i =>
    rw [runWord_ok hdecode] at h
    rcases exec_hasEffect i s t h with rfl | heffect
    · exact List.prefix_rfl
    · exact heffect.emitted_prefix
  | error e =>
    obtain ⟨c, info, hreject⟩ := rejectWord_eq e s
    rw [runWord_error hdecode, hreject] at h
    cases h
    exact List.prefix_rfl

@[simp] theorem State.retire_emitted (s : State) : s.retire.emitted = s.emitted := by
  unfold State.retire
  split <;> rfl

theorem coreStep_emitted_prefix {s t : State} (h : coreStep s = .next t) : s.emitted <+: t.emitted := by
  cases hcmdq : s.cmdq with
  | nil =>
    rw [coreStep_idle hcmdq] at h
    cases h
    exact List.prefix_rfl
  | cons w rest =>
    cases hrun : runWord w s with
    | next u =>
      rw [coreStep_next hcmdq hrun] at h
      cases h
      rw [State.retire_emitted]
      exact runWord_emitted_prefix hrun
    | fault r =>
      rw [coreStep_fault hcmdq hrun] at h
      cases h
    | refused r => simp [coreStep, hcmdq, hrun] at h

@[simp] theorem State.writeRegister_emitted (s : State) (off : Nat) (v : Word) :
    (s.writeRegister off v).emitted = s.emitted := by
  unfold State.writeRegister
  split <;> rfl

/-- R55: the drained byte moves from the front of OUT to the end of what was drained. -/
theorem hostDrain_emitted {s t : State} (h : hostDrain s = .next t) : t.emitted = s.emitted := by
  unfold hostDrain at h
  split at h <;> cases h
  · rfl
  case h_2 b rest hout => simp [State.emitted, hout]

/-- Of the host's moves only hardware reset, which empties OUT, touches the emitted bytes. -/
theorem hostStep_emitted {m : HostMove} {s t : State} (hm : m ≠ .hardReset) (h : hostStep m s = .next t) :
    t.emitted = s.emitted := by
  cases m with
  | read width off =>
    simp only [hostStep, hostRead] at h
    split at h <;> cases h
    rfl
  | write width off v =>
    simp only [hostStep, hostWrite] at h
    split at h <;> cases h
    exact s.writeRegister_emitted off v
  | push b =>
    simp only [hostStep, hostPush] at h
    split at h <;> cases h
    rfl
  | setEos =>
    simp only [hostStep, hostSetEos] at h
    split at h <;> cases h
    rfl
  | drain => exact hostDrain_emitted h
  | hardReset => exact absurd rfl hm

/-- Settles O24: a core step writes OUT at its end, and a host step other than hardware reset keeps the bytes. -/
theorem emittedBytesKeepTheirOrder : Obligations.EmittedBytesKeepTheirOrder := by
  unfold Obligations.EmittedBytesKeepTheirOrder
  intro s t hstep hnotReset
  unfold step at hstep
  split at hstep
  · exact coreStep_emitted_prefix hstep
  case h_2 rest _ => exact coreStep_emitted_prefix (s := { s with schedule := rest }) hstep
  case h_3 m rest hschedule =>
    have hm : m ≠ .hardReset := by
      rintro rfl
      exact hnotReset rest hschedule
    have hkept := hostStep_emitted hm hstep
    exact hkept ▸ List.prefix_rfl

/-- Settles O23: an append and a setting of `eos` go by `eos`, a drain by whether OUT is empty. -/
theorem streamPortsFollowTheRules : Obligations.StreamPortsFollowTheRules := by
  unfold Obligations.StreamPortsFollowTheRules
  intro s b
  refine ⟨fun hopen => ⟨?_, ?_⟩, fun hended => ⟨?_, ?_⟩, fun rest hout => ?_, fun hempty => ?_⟩
  · simp [hostStep, hostPush, hopen]
  · simp [hostStep, hostSetEos, hopen]
  · simp [hostStep, hostPush, hended]
  · simp [hostStep, hostSetEos, hended]
  · simp [hostStep, hostDrain, hout]
  · simp [hostStep, hostDrain, hempty]

end Sys2Proof.Machine

/-! ## Encoding and decoding of command words -/

namespace Sys2Proof

/-! ### A word as its four fields (R70) -/

/-- `RSV`, bits 31:25, the field that no command uses. -/
def rsvField (w : Word) : BitVec 7 := w.extractLsb' 25 7

theorem getLsbD_eq_of_extractLsb'_eq {w u : Word} {start len i : Nat} (hstart : start ≤ i) (hi : i < start + len)
    (h : w.extractLsb' start len = u.extractLsb' start len) : w.getLsbD i = u.getLsbD i := by
  have hbit := congrArg (BitVec.getLsbD · (i - start)) h
  have hindex : start + (i - start) = i := by omega
  have hlen : i - start < len := by omega
  simpa [hindex, hlen] using hbit

theorem word_ext_iff {w u : Word} :
    w = u ↔ rsvField w = rsvField u ∧ vField w = vField u ∧ aField w = aField u ∧ opField w = opField u := by
  refine ⟨fun h => h ▸ ⟨rfl, rfl, rfl, rfl⟩, fun ⟨hrsv, hv, ha, hop⟩ => BitVec.eq_of_getLsbD_eq fun i hi => ?_⟩
  rcases lt_or_ge i 8 with h8 | h8
  · exact getLsbD_eq_of_extractLsb'_eq i.zero_le h8 hop
  rcases lt_or_ge i 17 with h17 | h17
  · exact getLsbD_eq_of_extractLsb'_eq h8 h17 ha
  rcases lt_or_ge i 25 with h25 | h25
  · exact getLsbD_eq_of_extractLsb'_eq h17 h25 hv
  · exact getLsbD_eq_of_extractLsb'_eq h25 hi hrsv

theorem packWord_eq_append (op : Byte) (a : BitVec 9) (v : Byte) : packWord op a v = 0#7 ++ (v ++ a ++ op) :=
  (BitVec.setWidth_append_append_eq_shiftLeft_setWidth_or (b := v) (b' := a) (b'' := op)).symm.trans
    (BitVec.setWidth_eq_append (show 25 ≤ 32 by decide))

section
variable (op : Byte) (a : BitVec 9) (v : Byte)

@[simp] theorem rsvField_packWord : rsvField (packWord op a v) = 0#7 := by
  rw [packWord_eq_append, rsvField, BitVec.extractLsb'_append_eq_of_le (by decide)]
  rfl

@[simp] theorem vField_packWord : vField (packWord op a v) = v := by
  simp (disch := decide) only [packWord_eq_append, vField, BitVec.extractLsb'_append_eq_of_le,
    BitVec.extractLsb'_append_eq_of_add_le, BitVec.extractLsb'_eq_self, Nat.reduceSub]

@[simp] theorem aField_packWord : aField (packWord op a v) = a := by
  simp (disch := decide) only [packWord_eq_append, aField, BitVec.extractLsb'_append_eq_of_le,
    BitVec.extractLsb'_append_eq_of_add_le, BitVec.extractLsb'_eq_self, Nat.reduceSub]

@[simp] theorem opField_packWord : opField (packWord op a v) = op := by
  simp (disch := decide) only [packWord_eq_append, opField, BitVec.extractLsb'_append_eq_of_add_le,
    BitVec.extractLsb'_eq_self]

end

section
variable (w m : Word)

@[simp] theorem rsvField_and : rsvField (w &&& m) = rsvField w &&& rsvField m := BitVec.extractLsb'_and

@[simp] theorem vField_and : vField (w &&& m) = vField w &&& vField m := BitVec.extractLsb'_and

@[simp] theorem aField_and : aField (w &&& m) = aField w &&& aField m := BitVec.extractLsb'_and

@[simp] theorem opField_and : opField (w &&& m) = opField w &&& opField m := BitVec.extractLsb'_and

end

/-! ### The bits a class leaves free (R73) -/

/-- The bits of `A` that a class wants 0. -/
def OpClass.aMask : OpClass → BitVec 9
  | .n => 0x1FF#9
  | .s => 0x000#9
  | .b => 0x100#9
  | .t => 0x1FE#9
  | .sv => 0x000#9

/-- The bits of `V` that a class wants 0. -/
def OpClass.vMask : OpClass → Byte
  | .n => 0xFF#8
  | .s => 0xFF#8
  | .b => 0xFF#8
  | .t => 0xFF#8
  | .sv => 0x00#8

/-- The operand fields keep to the free bits of the class. -/
def OpClass.Admits (c : OpClass) (a : BitVec 9) (v : Byte) : Prop := a &&& c.aMask = 0#9 ∧ v &&& c.vMask = 0#8

theorem fields_mask (c : OpClass) :
    rsvField c.mask = 0x7F#7 ∧ vField c.mask = c.vMask ∧ aField c.mask = c.aMask ∧ opField c.mask = 0xFF#8 := by
  cases c <;> decide

/-- R73: a word is well formed for `op` when it is `op` packed with operands that the class admits. -/
theorem and_mask_eq_iff {w : Word} {c : OpClass} {op : Byte} :
    w &&& c.mask = op.setWidth 32 ↔ c.Admits (aField w) (vField w) ∧ packWord op (aField w) (vField w) = w := by
  obtain ⟨hrsv, hv, ha, hop⟩ := fields_mask c
  have hpack : op.setWidth 32 = packWord op 0#9 0x00#8 := by simp [packWord]
  have hrsvKept : rsvField w &&& 0x7F#7 = rsvField w := BitVec.and_allOnes
  have hopKept : opField w &&& 0xFF#8 = opField w := BitVec.and_allOnes
  rw [hpack, word_ext_iff, word_ext_iff (u := w)]
  simp only [rsvField_and, vField_and, aField_and, opField_and, rsvField_packWord, vField_packWord, aField_packWord,
    opField_packWord, hrsv, hv, ha, hop, hrsvKept, hopKept, true_and]
  exact ⟨fun ⟨hR, hV, hA, hO⟩ => ⟨⟨hA, hV⟩, hR.symm, hO.symm⟩,
    fun ⟨⟨hA, hV⟩, hR, hO⟩ => ⟨hR.symm, hV, hA, hO.symm⟩⟩

/-! ### What a class's operands read back -/

theorem getLsbD_eq_false_of_and_eq_zero {n i : Nat} {a m : BitVec n} (h : a &&& m = 0#n) (hm : m.getLsbD i = true) :
    a.getLsbD i = false := by
  have hbit := congrArg (BitVec.getLsbD · i) h
  simpa [hm] using hbit

/-- Classes N, S, B and T (R73): a field of which no bit is free is 0. -/
theorem eq_zero_of_and_allOnes {n : Nat} {a : BitVec n} (h : a &&& BitVec.allOnes n = 0#n) : a = 0#n :=
  BitVec.and_allOnes.symm.trans h

/-- Class B (R71): a byte leaves `A[8]` at 0. -/
theorem setWidth_byte_admitted (b : Byte) : b.setWidth 9 &&& OpClass.b.aMask = 0#9 := by
  refine BitVec.eq_of_getLsbD_eq fun i hi => ?_
  rcases Nat.lt_succ_iff_lt_or_eq.mp hi with hlow | rfl
  · have hmask : ∀ i < 8, OpClass.b.aMask.getLsbD i = false := by decide
    simp [hmask i hlow]
  · simp

/-- Class B (R71): `A[8]` is 0, so the byte is all of `A`. -/
theorem setWidth_byte_of_admitted {a : BitVec 9} (h : a &&& OpClass.b.aMask = 0#9) : (a.setWidth 8).setWidth 9 = a := by
  have hhigh : a.getLsbD 8 = false := getLsbD_eq_false_of_and_eq_zero h rfl
  refine BitVec.eq_of_getLsbD_eq fun i hi => ?_
  rcases Nat.lt_succ_iff_lt_or_eq.mp hi with hlow | rfl
  · simp [hi, hlow]
  · rw [hhigh, BitVec.getLsbD_setWidth, BitVec.getLsbD_setWidth]
    rfl

/-- Class T (R71): a bit leaves `A[8:1]` at 0. -/
theorem setWidth_bit_admitted (t : Bool) : (BitVec.ofBool t).setWidth 9 &&& OpClass.t.aMask = 0#9 := by
  cases t <;> rfl

/-- Class T (R71): `A[8:1]` is 0, so the bit is all of `A`. -/
theorem setWidth_bit_of_admitted {a : BitVec 9} (h : a &&& OpClass.t.aMask = 0#9) :
    (BitVec.ofBool (a.getLsbD 0)).setWidth 9 = a := by
  have hmask : ∀ i < 9, i ≠ 0 → OpClass.t.aMask.getLsbD i = true := by decide
  refine BitVec.eq_of_getLsbD_eq fun i hi => ?_
  by_cases hzero : i = 0
  · simp [hzero]
  · simp [hzero, getLsbD_eq_false_of_and_eq_zero h (hmask i hi hzero)]

/-! ### The opcode map as a table of forms (R75) -/

/-- A row names a command: it is of the command's class and admits its operands, reads the command back from its operand
fields, and what it reads from any fields that the class admits has those fields as operands. -/
structure Form.Names (f : Form) (i : Instr) : Prop where
  opClass : f.opClass = i.opClass
  admits : f.opClass.Admits i.aOperand i.vOperand
  build : ∀ w, aField w = i.aOperand → vField w = i.vOperand → f.build w = i
  operands : ∀ w, f.opClass.Admits (aField w) (vField w) →
    (f.build w).aOperand = aField w ∧ (f.build w).vOperand = vField w

theorem Form.names_n {i : Instr} (hclass : i.opClass = .n) (ha : i.aOperand = 0#9) (hv : i.vOperand = 0x00#8) :
    (Form.n i).Names i where
  opClass := hclass.symm
  admits := by rw [ha, hv]; exact ⟨BitVec.zero_and, BitVec.zero_and⟩
  build := fun _ _ _ => rfl
  operands := fun _ ⟨hA, hV⟩ =>
    ⟨ha.trans (eq_zero_of_and_allOnes hA).symm, hv.trans (eq_zero_of_and_allOnes hV).symm⟩

theorem Form.names_s {f : BitVec 9 → Instr} (hclass : ∀ a, (f a).opClass = .s) (ha : ∀ a, (f a).aOperand = a)
    (hv : ∀ a, (f a).vOperand = 0x00#8) (a : BitVec 9) : (Form.s f).Names (f a) where
  opClass := (hclass a).symm
  admits := by rw [ha, hv]; exact ⟨BitVec.and_zero, BitVec.zero_and⟩
  build := fun _ hA _ => congrArg f (hA.trans (ha a))
  operands := fun _ ⟨_, hV⟩ => ⟨ha _, (hv _).trans (eq_zero_of_and_allOnes hV).symm⟩

theorem Form.names_b {f : Byte → Instr} (hclass : ∀ b, (f b).opClass = .b) (ha : ∀ b, (f b).aOperand = b.setWidth 9)
    (hv : ∀ b, (f b).vOperand = 0x00#8) (b : Byte) : (Form.b f).Names (f b) where
  opClass := (hclass b).symm
  admits := by rw [ha, hv]; exact ⟨setWidth_byte_admitted b, BitVec.zero_and⟩
  build := fun _ hA _ => congrArg f (by simp [hA, ha])
  operands := fun _ ⟨hA, hV⟩ =>
    ⟨(ha _).trans (setWidth_byte_of_admitted hA), (hv _).trans (eq_zero_of_and_allOnes hV).symm⟩

theorem Form.names_t {f : Bool → Instr} (hclass : ∀ t, (f t).opClass = .t)
    (ha : ∀ t, (f t).aOperand = (BitVec.ofBool t).setWidth 9) (hv : ∀ t, (f t).vOperand = 0x00#8) (t : Bool) :
    (Form.t f).Names (f t) where
  opClass := (hclass t).symm
  admits := by rw [ha, hv]; exact ⟨setWidth_bit_admitted t, BitVec.zero_and⟩
  build := fun _ hA _ => congrArg f (by simp [hA, ha])
  operands := fun _ ⟨hA, hV⟩ =>
    ⟨(ha _).trans (setWidth_bit_of_admitted hA), (hv _).trans (eq_zero_of_and_allOnes hV).symm⟩

theorem Form.names_sv {f : BitVec 9 → Byte → Instr} (hclass : ∀ a v, (f a v).opClass = .sv)
    (ha : ∀ a v, (f a v).aOperand = a) (hv : ∀ a v, (f a v).vOperand = v) (a : BitVec 9) (v : Byte) :
    (Form.sv f).Names (f a v) where
  opClass := (hclass a v).symm
  admits := ⟨BitVec.and_zero, BitVec.and_zero⟩
  build := fun _ hA hV => congrArg₂ f (hA.trans (ha a v)) (hV.trans (hv a v))
  operands := fun _ _ => ⟨ha _ _, hv _ _⟩

/-- R75: every command has a row at its opcode. -/
theorem formOf_opcode (i : Instr) : ∃ f, formOf i.opcode.toNat = some f ∧ f.Names i := by
  cases i with
  | bwPut t => exact ⟨_, rfl, Form.names_t (fun _ => rfl) (fun _ => rfl) (fun _ => rfl) t⟩
  | freqInc a | freqGet a | lenGet a | codeLen a | encSym a =>
    exact ⟨_, rfl, Form.names_s (fun _ => rfl) (fun _ => rfl) (fun _ => rfl) a⟩
  | lenSet a v | codeBit a v =>
    exact ⟨_, rfl, Form.names_sv (fun _ _ => rfl) (fun _ _ => rfl) (fun _ _ => rfl) a v⟩
  | awPbyte b | awCount b | awSym b =>
    exact ⟨_, rfl, Form.names_b (fun _ => rfl) (fun _ => rfl) (fun _ => rfl) b⟩
  | _ => exact ⟨_, rfl, Form.names_n rfl rfl rfl⟩

/-- R75: what a row reads from a word has the row's opcode; each row of the map is one case of the split. -/
theorem opcode_build {op : Byte} {f : Form} (h : formOf op.toNat = some f) (w : Word) : (f.build w).opcode = op := by
  unfold formOf at h
  split at h <;> cases h <;> exact BitVec.eq_of_toNat_eq (Eq.symm ‹_›)

/-- A row names every command it reads. -/
theorem names_build {op : Byte} {f : Form} (h : formOf op.toNat = some f) (w : Word) : f.Names (f.build w) := by
  obtain ⟨g, hg, hnames⟩ := formOf_opcode (f.build w)
  rw [opcode_build h, h] at hg
  cases hg
  exact hnames

theorem wellFormed_iff (i : Instr) :
    i.wellFormed = true ↔ (i.opClass.takesSymbol = true → i.aOperand.toNat ≤ 256) := by
  cases i with
  | freqInc a | freqGet a | lenGet a | codeLen a | encSym a | lenSet a v | codeBit a v =>
    simp [Instr.wellFormed, Instr.opClass, OpClass.takesSymbol, Instr.aOperand]
  | _ => exact ⟨fun _ h => (nomatch h), fun _ => rfl⟩

/-! ### Decoding (R74) -/

/-- The word is well formed for the row at its opcode (R73). -/
structure Form.Matches (f : Form) (w : Word) : Prop where
  form : formOf (opField w).toNat = some f
  mask : w &&& f.opClass.mask = (opField w).setWidth 32

theorem decode_inRange {f : Form} {w : Word} (h : f.Matches w)
    (hsymbol : f.opClass.takesSymbol = true → (aField w).toNat ≤ 256) : decode w = .ok (f.build w) := by
  obtain ⟨hform, hmask⟩ := h
  have hin : ¬ (f.opClass.takesSymbol = true ∧ 256 < (aField w).toNat) :=
    fun ⟨ht, ha⟩ => absurd (hsymbol ht) ha.not_ge
  simp only [decode, hform, hmask, ne_eq, not_true, if_false, if_neg hin]

theorem decode_outOfRange {f : Form} {w : Word} (h : f.Matches w) (ht : f.opClass.takesSymbol = true)
    (ha : 256 < (aField w).toNat) : decode w = .error (.symbolRange (aField w)) := by
  obtain ⟨hform, hmask⟩ := h
  simp only [decode, hform, hmask, ne_eq, not_true, if_false, if_pos (And.intro ht ha)]

theorem decode_unmatched {w : Word} (h : ∀ f : Form, ¬ f.Matches w) : decode w = .error (.illegalCmd w) := by
  unfold decode
  split
  · rfl
  case h_2 f hform => exact if_pos fun hmask => h f ⟨hform, hmask⟩

/-- R74: a word decodes to what the one row it matches reads, unless the symbol is out of range; else to its error. -/
theorem decode_cases (w : Word) :
    (∃ f : Form, f.Matches w ∧ (f.opClass.takesSymbol = true → (aField w).toNat ≤ 256) ∧ decode w = .ok (f.build w)) ∨
    (∃ f : Form, f.Matches w ∧ decode w = .error (.symbolRange (aField w))) ∨
    (∀ f : Form, ¬ f.Matches w) ∧ decode w = .error (.illegalCmd w) := by
  by_cases hmatch : ∃ f : Form, f.Matches w
  · obtain ⟨f, hf⟩ := hmatch
    by_cases hsymbol : f.opClass.takesSymbol = true → (aField w).toNat ≤ 256
    · exact .inl ⟨f, hf, hsymbol, decode_inRange hf hsymbol⟩
    · obtain ⟨ht, ha⟩ := Classical.not_imp.mp hsymbol
      exact .inr (.inl ⟨f, hf, decode_outOfRange hf ht (Nat.lt_of_not_le ha)⟩)
  · have hnone := not_exists.mp hmatch
    exact .inr (.inr ⟨hnone, decode_unmatched hnone⟩)

/-- R77: a command's word is well formed for the command's row. -/
theorem matches_encode (i : Instr) : ∃ f : Form, f.Matches (encode i) ∧ f.Names i := by
  obtain ⟨f, hform, hnames⟩ := formOf_opcode i
  refine ⟨f, ⟨by rwa [encode, opField_packWord], and_mask_eq_iff.mpr ?_⟩, hnames⟩
  simpa [encode, hnames.opClass] using hnames.admits

/-- Settles O1: the command's row matches its word and reads the operands back from the fields they were packed in. -/
theorem decodeOfEncodeIsTheCommand : Obligations.DecodeOfEncodeIsTheCommand := by
  unfold Obligations.DecodeOfEncodeIsTheCommand
  intro i hwf
  obtain ⟨f, hmatch, hnames⟩ := matches_encode i
  have ha : aField (encode i) = i.aOperand := aField_packWord ..
  have hv : vField (encode i) = i.vOperand := vField_packWord ..
  have hsymbol := (wellFormed_iff i).mp hwf
  rw [← hnames.opClass, ← ha] at hsymbol
  rw [decode_inRange hmatch hsymbol, hnames.build _ ha hv]

/-- The operands of the command that a matching row reads are the word's fields. -/
theorem Form.Matches.operands {f : Form} {w : Word} (h : f.Matches w) :
    (f.build w).aOperand = aField w ∧ (f.build w).vOperand = vField w :=
  (names_build h.form w).operands w (and_mask_eq_iff.mp h.mask).1

theorem Form.Matches.encode_build {f : Form} {w : Word} (h : f.Matches w) : encode (f.build w) = w := by
  obtain ⟨ha, hv⟩ := h.operands
  rw [encode, opcode_build h.form, ha, hv]
  exact (and_mask_eq_iff.mp h.mask).2

/-- Settles O2: a word that decodes matches a row, and is its opcode packed with the fields the row reads. -/
theorem decodedWordIsTheEncoding : Obligations.DecodedWordIsTheEncoding := by
  unfold Obligations.DecodedWordIsTheEncoding
  intro w i hdecode
  rcases decode_cases w with ⟨f, hmatch, hsymbol, hok⟩ | ⟨f, _, herror⟩ | ⟨_, herror⟩
  · cases hok.symm.trans hdecode
    refine ⟨hmatch.encode_build, (wellFormed_iff _).mpr ?_⟩
    rwa [hmatch.operands.1, ← (names_build hmatch.form w).opClass]
  · cases herror.symm.trans hdecode
  · cases herror.symm.trans hdecode

/-! ### The opcode map as a list of rows (R75) -/

/-- R75: the row of every command is in the map. -/
theorem row_mem_opcodeMap (i : Instr) : i.row ∈ opcodeMap :=
  match i with
  | .nop => Laws.Row.nop | .srst => Laws.Row.srst
  | .brOpen => Laws.Row.brOpen | .brGet => Laws.Row.brGet | .brClose => Laws.Row.brClose
  | .bwPut t => Laws.Row.bwPut t | .bwClose => Laws.Row.bwClose
  | .freqClr => Laws.Row.freqClr | .freqInc a => Laws.Row.freqInc a | .freqGet a => Laws.Row.freqGet a
  | .treeBuild => Laws.Row.treeBuild | .lenFromTree => Laws.Row.lenFromTree | .treeFromLen => Laws.Row.treeFromLen
  | .lenGet a => Laws.Row.lenGet a | .lenSet a v => Laws.Row.lenSet a v | .lenClr => Laws.Row.lenClr
  | .lenEmit => Laws.Row.lenEmit | .lenLoad => Laws.Row.lenLoad | .codeGen => Laws.Row.codeGen
  | .codeLen a => Laws.Row.codeLen a | .codeBit a v => Laws.Row.codeBit a v
  | .encSym a => Laws.Row.encSym a | .encEnd => Laws.Row.encEnd | .decSym => Laws.Row.decSym
  | .awBegin => Laws.Row.awBegin | .awPbyte b => Laws.Row.awPbyte b | .awPend => Laws.Row.awPend
  | .awMend => Laws.Row.awMend | .awDir => Laws.Row.awDir | .awFile => Laws.Row.awFile
  | .awCount b => Laws.Row.awCount b | .awFilehdr => Laws.Row.awFilehdr | .awSym b => Laws.Row.awSym b
  | .awFend => Laws.Row.awFend | .awEnd => Laws.Row.awEnd
  | .arMagic => Laws.Row.arMagic | .arMbyte => Laws.Row.arMbyte | .arSkipm => Laws.Row.arSkipm
  | .arEntry => Laws.Row.arEntry | .arPbyte => Laws.Row.arPbyte | .arFilehdr => Laws.Row.arFilehdr
  | .arSym => Laws.Row.arSym | .arEnd => Laws.Row.arEnd | .frAbort => Laws.Row.frAbort

theorem opcodes_nodup : (opcodeMap.map OpRow.op).Nodup := by decide

/-- R75: no two rows have one opcode. -/
theorem row_eq_of_op_eq {row other : OpRow} (hrow : row ∈ opcodeMap) (hother : other ∈ opcodeMap)
    (h : row.op = other.op) : row = other :=
  List.inj_on_of_nodup_map opcodes_nodup hrow hother h

theorem formOf_op_isSome : ∀ row ∈ opcodeMap, (formOf row.op.toNat).isSome = true := by decide

/-- The word is well formed for the row (R73). -/
def OpRow.Matches (row : OpRow) (w : Word) : Prop := w &&& row.opClass.mask = row.op.setWidth 32

theorem OpRow.Matches.op_eq {row : OpRow} {w : Word} (h : row.Matches w) : row.op = opField w := by
  rw [← (and_mask_eq_iff.mp h).2, opField_packWord]

/-- A word that matches a row of the list matches the row that `decode` looks up, which reads a command of that row. -/
theorem OpRow.Matches.exists_form {row : OpRow} {w : Word} (hrow : row ∈ opcodeMap) (h : row.Matches w) :
    ∃ f : Form, f.Matches w ∧ f.opClass = row.opClass ∧ (f.build w).row = row := by
  obtain ⟨f, hform⟩ := Option.isSome_iff_exists.mp (formOf_op_isSome row hrow)
  have hbuild : (f.build w).row = row := row_eq_of_op_eq (row_mem_opcodeMap _) hrow (opcode_build hform w)
  have hclass : f.opClass = row.opClass := (names_build hform w).opClass.trans (congrArg OpRow.opClass hbuild)
  have hmatch : f.Matches w := ⟨h.op_eq ▸ hform, by rw [hclass, ← h.op_eq]; exact h⟩
  exact ⟨f, hmatch, hclass, hbuild⟩

/-- A word that matches the row `decode` looks up matches the row of the command it reads. -/
theorem Form.Matches.row_build {f : Form} {w : Word} (h : f.Matches w) : (f.build w).row.Matches w := by
  have hclass : (f.build w).row.opClass = f.opClass := (names_build h.form w).opClass.symm
  have hop : (f.build w).row.op = opField w := opcode_build h.form w
  rw [OpRow.Matches, hclass, hop]
  exact h.mask

/-! ### What a word does (R74, R76) -/

/-- Settles O4: `decode` computes each answer. -/
theorem wordsOfTheSpecDecode : Obligations.WordsOfTheSpecDecode := by
  unfold Obligations.WordsOfTheSpecDecode
  exact ⟨rfl, rfl, rfl, rfl, rfl, rfl, rfl, rfl, rfl, rfl⟩

/-- R74: an error of `decode` is of the word itself. -/
theorem decode_error {w : Word} {e : DecodeError} (h : decode w = .error e) :
    e = .illegalCmd w ∨ e = .symbolRange (aField w) := by
  rcases decode_cases w with ⟨f, _, _, hok⟩ | ⟨f, _, herror⟩ | ⟨_, herror⟩
  · cases hok.symm.trans h
  · cases herror.symm.trans h
    exact .inr rfl
  · cases herror.symm.trans h
    exact .inl rfl

end Sys2Proof

namespace Sys2Proof.Machine

theorem runWord_illegalCmd {w v : Word} (h : decode w = .error (.illegalCmd v)) (s : State) :
    runWord w s = .next (s.failed .illegalCmd v) := runWord_error h s

theorem runWord_symbolRange {w : Word} {a : BitVec 9} (h : decode w = .error (.symbolRange a)) (s : State) :
    runWord w s = .next (s.failed .symbolRange (a.setWidth 32)) := runWord_error h s

/-- Settles O3: a row of the list is the row `decode` looks up, and opcodes tell the rows apart. -/
theorem everyWordRunsOrOnlyReports : Obligations.EveryWordRunsOrOnlyReports := by
  unfold Obligations.EveryWordRunsOrOnlyReports
  intro w s
  refine ⟨fun row hrow (hmatch : row.Matches w) => ?_, fun hnone => ?_⟩
  · obtain ⟨f, hform, hclass, hbuild⟩ := hmatch.exists_form hrow
    refine ⟨fun other hother (hmatch' : other.Matches w) => ?_, fun hsymbol hrange => ?_, fun hrange => ?_⟩
    · exact row_eq_of_op_eq hother hrow (hmatch'.op_eq.trans hmatch.op_eq.symm)
    · exact runWord_symbolRange (decode_outOfRange hform (hclass ▸ hsymbol) hrange) s
    · have hok : decode w = .ok (f.build w) := decode_inRange hform (hclass ▸ hrange)
      obtain ⟨ha, hv⟩ := hform.operands
      exact ⟨f.build w, hbuild, ha, hv, hok, runWord_ok hok s⟩
  · have hunmatched : ∀ f : Form, ¬ f.Matches w := fun f hform => hnone _ (row_mem_opcodeMap _) hform.row_build
    exact runWord_illegalCmd (decode_unmatched hunmatched) s

/-- R251, R252: a reported error has completed, so its word leaves the port. -/
theorem coreStep_failed {s : State} {w : Word} {rest : List Word} {c : ErrCode} {info : Word}
    (hcmdq : s.cmdq = w :: rest) (hrun : runWord w s = .next (s.failed c info)) :
    coreStep s = .next { s.failed c info with cmdq := rest } := by
  rw [coreStep_next hcmdq hrun]
  simp [State.retire, State.failed, hcmdq]

/-- Settles O6: on the core's turn the step is `coreStep`, which reports the error of `decode`, or waits. -/
theorem stepReportsRejectedWordsAndWaits : Obligations.StepReportsRejectedWordsAndWaits := by
  unfold Obligations.StepReportsRejectedWordsAndWaits
  intro s moves hturn
  have hstep := step_of_coreTurn hturn
  let s' := { s with schedule := moves }
  refine ⟨fun w rest hcmdq => ⟨fun v hillegal => ?_, fun a hsymbol => ?_⟩, fun hempty => ?_⟩
  · obtain rfl : v = w := by simpa using decode_error hillegal
    exact ⟨rfl, hstep.trans (coreStep_failed (s := s') hcmdq (runWord_illegalCmd hillegal s'))⟩
  · obtain rfl : a = aField w := by simpa using decode_error hsymbol
    exact ⟨rfl, hstep.trans (coreStep_failed (s := s') hcmdq (runWord_symbolRange hsymbol s'))⟩
  · exact hstep.trans (coreStep_idle (s := s') hempty)

end Sys2Proof.Machine

/-! ## The control commands -/

namespace Sys2Proof.Machine

/-- R90: `NOP` has no statement, so only the start and the end of a command are left. -/
theorem exec_nop (s : State) : exec .nop s = .next s.completed :=
  command_done (rule := .done) rfl

/-- R91: `SRST` is the soft reset between the start and the end of a command. -/
theorem exec_srst (s : State) : exec .srst s = .next s.accept.softReset.complete :=
  command_done (rule := fun s => .done s.softReset) rfl

/-- R271: a soft reset keeps OUT, and with it the port (log entry 7) and what belongs to the host; every other field is
that of R41. -/
theorem complete_softReset_accept (s : State) :
    s.accept.softReset.complete = { State.resetWith s.cfg with
      out := s.out, cmdq := s.cmdq, schedule := s.schedule, reads := s.reads, received := s.received } := rfl

/-- Settles O26: neither rule can hold, so each command is its rule between the start and the end of a command. -/
theorem nopAndSrst : Obligations.NopAndSrst := by
  unfold Obligations.NopAndSrst
  refine ⟨rfl, rfl, fun s => ⟨exec_nop s, ?_⟩⟩
  rw [exec_srst, complete_softReset_accept]

end Sys2Proof.Machine

/-! ## The BitReader and the BitWriter -/

namespace Sys2Proof.Machine

/-! ### `BRGet` in each of its cases (R101) -/

section
variable {s : State}

theorem brGet_of_closed (hclosed : s.br.closed = true) : brGet s = .atEnd := by
  simp [brGet, hclosed]

theorem brGet_of_bitHeld (hopen : s.br.closed = false) (hrem : s.br.rem ≠ 0) :
    brGet s = .bit (s.br.buf.getLsbD (s.br.rem - 1)) { s with br := ⟨s.br.buf, s.br.rem - 1, false⟩ } := by
  simp [brGet, takeBit, hopen, hrem]

theorem brGet_of_byteReady {c : Byte} {q : List Byte} (hopen : s.br.closed = false) (hrem : s.br.rem = 0)
    (hinq : s.inq = c :: q) : brGet s = .bit (c.getLsbD 7) { s with inq := q, br := ⟨c, 7, false⟩ } := by
  simp [brGet, takeBit, hopen, hrem, inRead_cons hinq]

theorem brGet_of_ended (hopen : s.br.closed = false) (hrem : s.br.rem = 0) (hinq : s.inq = []) (heos : s.eos = true) :
    brGet s = .atEnd := by
  simp [brGet, hopen, hrem, inRead_atEnd hinq heos]

theorem brGet_of_starved (hopen : s.br.closed = false) (hrem : s.br.rem = 0) (hinq : s.inq = [])
    (heos : s.eos = false) : brGet s = .hold := by
  simp [brGet, hopen, hrem, inRead_hold hinq heos]

end

/-! ### The reader's commands -/

/-- A bit as a register value. -/
theorem flagBit_setWidth (b : Bool) : (flagBit b).setWidth 32 = if b = true then 1#32 else 0#32 := by
  cases b <;> rfl

theorem exec_brOpen (s : State) : exec .brOpen s = .next { s.completed with br := ⟨0x00#8, 0, false⟩ } :=
  command_done (rule := fun s => .done s.openReader) rfl

theorem exec_brClose (s : State) : exec .brClose s = .next { s.completed with br := ⟨0x00#8, 0, true⟩ } :=
  command_done (rule := fun s => .done s.closeReader) rfl

theorem exec_brGet (s : State) : exec .brGet s = execBrGet s := rfl

theorem exec_brGet_bit {s u : State} {b : Bool} (h : brGet s.accept = .bit b u) :
    exec .brGet s = .next (u.withResult (if b = true then 1#32 else 0#32)).complete := by
  rw [exec_brGet, execBrGet, ← flagBit_setWidth]
  exact command_done (by simp only [h])

theorem exec_brGet_atEnd {s : State} (h : brGet s.accept = .atEnd) :
    exec .brGet s = .next { s.completed with result := 2#32, endf := true } := by
  rw [exec_brGet, execBrGet]
  exact command_done (t := (s.accept.withResult 2#32).setEnd) (by simp only [h])

theorem exec_brGet_hold {s : State} (h : brGet s.accept = .hold) : exec .brGet s = .next s.held := by
  rw [exec_brGet, execBrGet]
  exact command_hold (by simp only [h])

/-- Settles O27: opening and closing are plain rules, and each case of `BR_GET` is one of `BRGet`, which reads nothing
that the command's start clears. -/
theorem bitReaderCommands : Obligations.BitReaderCommands := by
  unfold Obligations.BitReaderCommands
  refine ⟨rfl, rfl, rfl, fun s => ⟨exec_brOpen s, exec_brClose s, fun hclosed => ?_, fun hopen hrem => ?_,
    fun c q hopen hrem hinq => ?_, fun hopen hrem hinq heos => ?_, fun hopen hrem hinq heos => ?_⟩⟩
  · exact exec_brGet_atEnd (brGet_of_closed (s := s.accept) hclosed)
  · exact exec_brGet_bit (brGet_of_bitHeld (s := s.accept) hopen hrem)
  · exact exec_brGet_bit (brGet_of_byteReady (s := s.accept) hopen hrem hinq)
  · exact exec_brGet_atEnd (brGet_of_ended (s := s.accept) hopen hrem hinq heos)
  · exact exec_brGet_hold (brGet_of_starved (s := s.accept) hopen hrem hinq heos)

/-! ### Bytes and their bits -/

/-- R107: eight bits read as a binary number are the formula's weighted sum. -/
theorem byteOfBits_eq_weightedByte {x : Bits} (h : x.length = 8) : byteOfBits x = weightedByte x := by
  match x, h with
  | [b7, b6, b5, b4, b3, b2, b1, b0], _ =>
    refine congrArg (BitVec.ofNat 8) ?_
    simp [bitsValue, List.range_succ]
    omega

/-- R62, R107: a byte made of eight bits reads back as them. -/
theorem byteBits_byteOfBits {x : Bits} (h : x.length = 8) : byteBits (byteOfBits x) = x := by
  refine List.ext_getElem (by simp [byteBits, h]) fun i _ hi => ?_
  have hi8 : i < 8 := h ▸ hi
  have hindex : x.length - 1 - (7 - i) = i := by omega
  have hplace : 7 - i < 8 ∧ 7 - i < x.length := by omega
  calc (byteBits (byteOfBits x))[i]
    _ = (byteOfBits x).getLsbD (7 - i) := by simp [byteBits]
    _ = (bitsValue x).testBit (7 - i) := by
        simp only [byteOfBits, BitVec.getLsbD_ofNat, hplace, decide_true, Bool.true_and]
    _ = x[i] := by simp [testBit_bitsValue, hplace, hindex, hi]

@[simp] theorem bitsOfBytes_append (bs cs : List Byte) : bitsOfBytes (bs ++ cs) = bitsOfBytes bs ++ bitsOfBytes cs :=
  List.flatMap_append

@[simp] theorem length_byteBits (b : Byte) : (byteBits b).length = 8 := by
  simp [byteBits]

theorem length_bitsOfBytes (bs : List Byte) : (bitsOfBytes bs).length = 8 * bs.length := by
  simp [bitsOfBytes, List.length_flatMap, Nat.mul_comm]

theorem bitsOfBytes_byteOfBits {x : Bits} (h : x.length = 8) : bitsOfBytes [byteOfBits x] = x := by
  simp [bitsOfBytes, byteBits_byteOfBits h]

/-- R112: the padding depends only on how far the last byte is filled. -/
theorem padCount_mul_add (k n : Nat) : padCount (8 * k + n) = padCount n := by
  unfold padCount
  omega

/-! ### `BWPut` and `BWClose` in each of their cases (R108, R109) -/

section
variable {s : State}

theorem bwPut_of_room (h : s.bw.length < 7) (b : Bool) : s.bwPut b = { s with bw := s.bw ++ [b] } := by
  have hroom : (s.bw ++ [b]).length ≠ 8 := by simp; omega
  exact if_neg hroom

theorem bwPut_of_full (h : s.bw.length = 7) (b : Bool) :
    s.bwPut b = { s with out := s.out ++ [byteOfBits (s.bw ++ [b])], bw := [] } :=
  if_pos (by simp [h])

theorem bwClose_of_empty (h : s.bw = []) : s.bwClose = s :=
  (if_neg (by simp [h])).trans (by rw [← h])

theorem bwClose_of_partial (h : 0 < s.bw.length) :
    s.bwClose = { s with
      out := s.out ++ [byteOfBits (s.bw ++ List.replicate (8 - s.bw.length) false)], bw := [] } :=
  if_pos h

end

theorem complete_bwPut (s : State) (b : Bool) : (s.bwPut b).complete = s.complete.bwPut b := by
  simp only [State.bwPut, apply_ite State.complete]
  rfl

theorem complete_bwClose (s : State) : s.bwClose.complete = s.complete.bwClose := by
  simp only [State.bwClose, apply_ite State.complete]
  rfl

@[simp] theorem State.bwPut_busy (s : State) (b : Bool) : (s.bwPut b).busy = s.busy := by
  obtain ⟨out, bw, h⟩ := bwPut_frame s b
  rw [h]

@[simp] theorem State.bwClose_busy (s : State) : s.bwClose.busy = s.busy := by
  obtain ⟨out, h⟩ := bwClose_frame s
  rw [h]

theorem completed_bwPut_completed (s : State) (b : Bool) : (s.completed.bwPut b).completed = s.completed.bwPut b := by
  obtain ⟨out, bw, h⟩ := bwPut_frame s.completed b
  rw [h]
  rfl

/-! ### The writer's commands -/

theorem exec_bwPut (t : Bool) (s : State) : exec (.bwPut t) s = .next (s.completed.bwPut t) := by
  rw [← accept_complete, ← complete_bwPut]
  exact command_done (rule := fun s => .done (s.bwPut t)) rfl

theorem exec_bwClose (s : State) : exec .bwClose s = .next s.completed.bwClose := by
  rw [← accept_complete, ← complete_bwClose]
  exact command_done (rule := fun s => .done s.bwClose) rfl

/-- Settles O28: each command is its primitive between the start and the end of a command, and a byte is written only of
eight bits. -/
theorem bitWriterCommands : Obligations.BitWriterCommands := by
  unfold Obligations.BitWriterCommands
  refine ⟨rfl, rfl, rfl, fun s => ⟨fun t hroom => ?_, fun t hfull => ?_, fun hempty => ?_, fun hpos hle => ?_⟩⟩
  · rw [exec_bwPut, bwPut_of_room (s := s.completed) hroom]
    rfl
  · rw [exec_bwPut, bwPut_of_full (s := s.completed) hfull, byteOfBits_eq_weightedByte (by simp [hfull])]
    rfl
  · rw [exec_bwClose, bwClose_of_empty (s := s.completed) hempty]
  · rw [exec_bwClose, bwClose_of_partial (s := s.completed) hpos, byteOfBits_eq_weightedByte (by simp; omega)]
    rfl

/-! ### Many bits, and the close -/

/-- R108, R164: the bytes flushed and the bits still held are the bits there were, followed by those put. -/
theorem bwPutAll_bits (x : Bits) {s : State} (h : s.bw.length ≤ 7) :
    ∃ bytes bw, s.bwPutAll x = { s with out := s.out ++ bytes, bw := bw } ∧ bw.length ≤ 7 ∧
      bitsOfBytes bytes ++ bw = s.bw ++ x := by
  induction x generalizing s with
  | nil => exact ⟨[], s.bw, by simp [State.bwPutAll], h, by simp [bitsOfBytes]⟩
  | cons b x ih =>
    have hcons : s.bwPutAll (b :: x) = (s.bwPut b).bwPutAll x := rfl
    rcases Nat.lt_or_eq_of_le h with hroom | hfull
    · have hput := bwPut_of_room hroom b
      obtain ⟨bytes, bw, hall, hle, hbits⟩ := ih (s := s.bwPut b) (by rw [hput]; simp; omega)
      exact ⟨bytes, bw, by rw [hcons, hall, hput], hle, by simpa [hput] using hbits⟩
    · have hput := bwPut_of_full hfull b
      obtain ⟨bytes, bw, hall, hle, hbits⟩ := ih (s := s.bwPut b) (by simp [hput])
      refine ⟨byteOfBits (s.bw ++ [b]) :: bytes, bw, by rw [hcons, hall, hput]; simp, hle, ?_⟩
      have hbyte := bitsOfBytes_byteOfBits (x := s.bw ++ [b]) (by simp [hfull])
      rw [← List.singleton_append, bitsOfBytes_append, hbyte, List.append_assoc, hbits, hput]
      simp

/-- R109: the close writes the bits held and the zeros that fill up their byte. -/
theorem bwClose_bits {s : State} (h : s.bw.length ≤ 7) :
    ∃ bytes, s.bwClose = { s with out := s.out ++ bytes, bw := [] } ∧
      bitsOfBytes bytes = s.bw ++ List.replicate (padCount s.bw.length) false := by
  rcases Nat.eq_zero_or_pos s.bw.length with hzero | hpos
  · have hempty : s.bw = [] := List.length_eq_zero_iff.mp hzero
    exact ⟨[], by rw [bwClose_of_empty hempty, ← hempty]; simp, by simp [hempty, bitsOfBytes, padCount]⟩
  · have hpad : padCount s.bw.length = 8 - s.bw.length := by unfold padCount; omega
    exact ⟨_, bwClose_of_partial hpos, by rw [hpad]; exact bitsOfBytes_byteOfBits (by simp; omega)⟩

/-- R112, for a writer that may hold bits already: the bytes written read back as the bits held, the bits put, and the
zeros that fill up the last byte. -/
theorem bwClose_bwPutAll_bits (x : Bits) {s : State} (h : s.bw.length ≤ 7) :
    ∃ bytes, (s.bwPutAll x).bwClose = { s with out := s.out ++ bytes, bw := [] } ∧
      bitsOfBytes bytes = s.bw ++ x ++ List.replicate (padCount (s.bw.length + x.length)) false := by
  obtain ⟨bytes, bw, hall, hle, hbits⟩ := bwPutAll_bits x h
  obtain ⟨last, hclose, hlast⟩ := bwClose_bits (s := s.bwPutAll x) (by rw [hall]; exact hle)
  have hpad : padCount (s.bw.length + x.length) = padCount bw.length := by
    rw [← List.length_append, ← hbits, List.length_append, length_bitsOfBytes, padCount_mul_add]
  refine ⟨bytes ++ last, by rw [hclose, hall]; simp, ?_⟩
  rw [bitsOfBytes_append, hlast, hpad, ← hbits, hall, List.append_assoc]

/-- A number of bits that fills whole bytes fixes the number of bytes. -/
theorem length_of_bitsOfBytes_padded {bytes : List Byte} {x : Bits}
    (h : bitsOfBytes bytes = x ++ List.replicate (padCount x.length) false) : bytes.length = (x.length + 7) / 8 := by
  have hlen := congrArg List.length h
  rw [length_bitsOfBytes, List.length_append, List.length_replicate, padCount] at hlen
  omega

theorem runClean_cons {i : Instr} {is : List Instr} {s t : State} (h : exec i s = .next t) (hbusy : t.busy = false)
    (herr : t.err = false) : runClean (i :: is) s = runClean is t := by
  simp [runClean, h, hbusy, herr]

/-- A run of `BW_PUT`s and a `BW_CLOSE` is the primitives in a row, between one start and one end of a command. -/
theorem runClean_bwPut_bwClose (x : Bits) (s : State) :
    runClean (x.map Instr.bwPut ++ [.bwClose]) s = some (s.completed.bwPutAll x).bwClose := by
  induction x generalizing s with
  | nil => exact runClean_cons (exec_bwClose s) (State.bwClose_busy _) (State.bwClose_err _)
  | cons b x ih =>
    have hput := runClean_cons (is := x.map Instr.bwPut ++ [.bwClose]) (exec_bwPut b s) (State.bwPut_busy _ _)
      (State.bwPut_err _ _)
    rw [List.map_cons, List.cons_append, hput, ih, completed_bwPut_completed]
    rfl

/-- Settles O29: the run is the primitives in a row, and what they write is known bit by bit, and so its length. -/
theorem closedBitsFillWholeBytes : Obligations.ClosedBitsFillWholeBytes := by
  unfold Obligations.ClosedBitsFillWholeBytes
  intro s x hempty
  obtain ⟨bytes, hrun, hbits⟩ := bwClose_bwPutAll_bits x (s := s.completed) (by simp [hempty])
  have hread : bitsOfBytes bytes = x ++ List.replicate (padCount x.length) false := by simpa [hempty] using hbits
  refine ⟨bytes, ?_, length_of_bitsOfBytes_padded hread, hread⟩
  rw [runClean_bwPut_bwClose, hrun, ← hempty]
  rfl

end Sys2Proof.Machine

/-! ## The frequency counter -/

namespace Sys2Proof.Machine

/-! ### The commands -/

/-- R71, R77: the word of a command of class S, whose field `V` is zero. -/
theorem packWord_zero (op : Byte) (a : BitVec 9) : packWord op a 0x00#8 = a.setWidth 32 <<< 8 ||| op.setWidth 32 := by
  simp [packWord]

theorem exec_freqClr (s : State) : exec .freqClr s = .next { s.completed with freq := freqZero } :=
  command_done (rule := fun s => .done { s with freq := freqZero }) rfl

theorem exec_freqInc (a : BitVec 9) (s : State) : exec (.freqInc a) s = execFreqInc a s := rfl

section
variable {s : State} {a : BitVec 9} {x : Symbol}

theorem withSymbol_of_val (hx : x.val = a.toNat) (s : State) (rule : Symbol → Ending) : withSymbol a s rule = rule x := by
  have hlt : a.toNat < 257 := hx ▸ x.isLt
  rw [withSymbol_in hlt, show x = ⟨a.toNat, hlt⟩ from Fin.ext hx]

theorem exec_freqInc_outOfRange (h : 256 < a.toNat) :
    exec (.freqInc a) s = .next (s.failed .symbolRange (a.setWidth 32)) :=
  (exec_freqInc a s).trans <| command_done (t := s.accept.report .symbolRange (a.setWidth 32))
    (withSymbol_out (Nat.not_lt.mpr h) s.accept _)

theorem exec_freqInc_full (hx : x.val = a.toNat) (hfull : entry s.freq x = s.cfg.cntMax) :
    exec (.freqInc a) s = .next (s.failed .counterOverflow (symbolWord x)) :=
  (exec_freqInc a s).trans <| command_done (t := s.accept.report .counterOverflow (symbolWord x))
    ((withSymbol_of_val hx s.accept _).trans (if_pos hfull))

theorem exec_freqInc_room (hx : x.val = a.toNat) (hroom : entry s.freq x ≠ s.cfg.cntMax) :
    exec (.freqInc a) s = .next { s.completed with freq := countSymbol s.freq x } :=
  (exec_freqInc a s).trans <| command_done (t := { s.accept with freq := countSymbol s.freq x })
    ((withSymbol_of_val hx s.accept _).trans (if_neg hroom))

end

/-- Settles O30: the three outcomes of `FREQ_INC`, and `countSymbol` entry by entry. -/
theorem frequencyCommands : Obligations.FrequencyCommands := by
  unfold Obligations.FrequencyCommands
  refine ⟨rfl, fun a => packWord_zero 0x21#8 a, fun s => ⟨⟨freqZero, exec_freqClr s, entry_freqZero⟩, fun a =>
    ⟨exec_freqInc_outOfRange, fun x hx => ⟨exec_freqInc_full hx, fun hroom =>
      ⟨countSymbol s.freq x, exec_freqInc_room hx hroom, ?_, fun y hy => ?_⟩⟩⟩⟩⟩
  · rw [entry_countSymbol, if_pos rfl]
  · rw [entry_countSymbol, if_neg hy]

/-! ### Counting a list of symbols (R123) -/

/-- R123: the symbols a counting pass counts, in order. -/
def countedSymbols (d : List Byte) : List Symbol := d.map byteSymbol ++ [sentinel]

/-- The operand that names a symbol. -/
def symbolOperand (x : Symbol) : BitVec 9 := BitVec.ofNat 9 x.val

theorem toNat_symbolOperand (x : Symbol) : (symbolOperand x).toNat = x.val :=
  Nat.mod_eq_of_lt (Nat.lt_trans x.isLt (by decide))

theorem countingPass_eq (d : List Byte) :
    countingPass d = .freqClr :: (countedSymbols d).map fun x => .freqInc (symbolOperand x) := by
  simp [countingPass, countedSymbols, freqSent, symbolOperand, byteSymbol, sentinel]

theorem countFile_eq (d : List Byte) : countFile d = (countedSymbols d).foldl countSymbol freqZero := by
  simp [countFile, countBytes, countedSymbols, List.foldl_map]

/-- What a table has counted and what is still to be counted keep their total. -/
theorem entry_countSymbol_add_count (f : FreqTable) (a x : Symbol) (xs : List Symbol) :
    entry (countSymbol f a) x + xs.count x = entry f x + (a :: xs).count x := by
  rw [entry_countSymbol]
  split
  case isTrue h => rw [h, List.count_cons_self, Nat.add_right_comm, Nat.add_assoc]
  case isFalse h => rw [List.count_cons_of_ne (Ne.symm h)]

theorem entry_foldl_countSymbol (xs : List Symbol) (f : FreqTable) (x : Symbol) :
    entry (xs.foldl countSymbol f) x = entry f x + xs.count x := by
  induction xs generalizing f with
  | nil => rfl
  | cons a xs ih => rw [List.foldl_cons, ih, entry_countSymbol_add_count]

theorem entry_countFile (d : List Byte) (x : Symbol) : entry (countFile d) x = (countedSymbols d).count x := by
  rw [countFile_eq, entry_foldl_countSymbol, entry_freqZero, Nat.zero_add]

theorem runClean_cons_of_err {i : Instr} {is : List Instr} {s t : State} (h : exec i s = .next t) (herr : t.err = true) :
    runClean (i :: is) s = none := by
  simp [runClean, h, herr]

/-- R121, R125: a run of `FREQ_INC`s from counters within bounds is clean exactly when no count would pass `CNT_MAX`. -/
theorem runClean_freqIncs (xs : List Symbol) {s : State} {f : FreqTable} (hf : ∀ x, entry f x ≤ s.cfg.cntMax) :
    runClean (xs.map fun x => .freqInc (symbolOperand x)) { s.completed with freq := f } =
      if ∀ x, entry f x + xs.count x ≤ s.cfg.cntMax then some { s.completed with freq := xs.foldl countSymbol f }
      else none := by
  induction xs generalizing f with
  | nil => exact (if_pos hf).symm
  | cons a xs ih =>
    by_cases hfull : entry f a = s.cfg.cntMax
    · have hover : ¬ ∀ x, entry f x + (a :: xs).count x ≤ s.cfg.cntMax := fun h => by
        have ha := h a
        rw [List.count_cons_self] at ha
        omega
      rw [if_neg hover]
      exact runClean_cons_of_err (exec_freqInc_full (toNat_symbolOperand a).symm hfull) rfl
    · have hf' : ∀ x, entry (countSymbol f a) x ≤ s.cfg.cntMax := fun x => by
        rw [entry_countSymbol]
        split
        · exact Nat.lt_of_le_of_ne (hf a) hfull
        · exact hf x
      have hstep : exec (.freqInc (symbolOperand a)) { s.completed with freq := f } =
          .next { s.completed with freq := countSymbol f a } := exec_freqInc_room (toNat_symbolOperand a).symm hfull
      rw [List.map_cons, runClean_cons hstep rfl rfl, ih hf', List.foldl_cons]
      simp only [entry_countSymbol_add_count]

theorem runClean_countingPass (d : List Byte) (s : State) :
    runClean (countingPass d) s =
      if ∀ x, (countedSymbols d).count x ≤ s.cfg.cntMax then some { s.completed with freq := countFile d } else none := by
  rw [countingPass_eq, runClean_cons (exec_freqClr s) rfl rfl, runClean_freqIncs _ (by simp), countFile_eq]
  simp only [entry_freqZero, Nat.zero_add]

/-! ### What a counting pass counts (R124) -/

theorem byteSymbol_injective : Function.Injective byteSymbol := fun _ _ h =>
  BitVec.eq_of_toNat_eq (congrArg (fun x : Symbol => x.val) h)

theorem byteSymbol_ne_sentinel (b : Byte) : byteSymbol b ≠ sentinel := fun h => by
  have hval : b.toNat = 256 := Fin.val_eq_of_eq h
  have hlt := b.isLt
  omega

theorem eq_sentinel_or_byteSymbol (x : Symbol) : x = sentinel ∨ ∃ b, x = byteSymbol b := by
  rcases Nat.lt_or_ge x.val 256 with hlt | hge
  · exact .inr ⟨BitVec.ofNat 8 x.val, Fin.ext (Nat.mod_eq_of_lt hlt).symm⟩
  · exact .inl (Fin.ext (Nat.le_antisymm (Nat.le_of_lt_succ x.isLt) hge))

@[simp] theorem count_byteSymbol_countedSymbols (d : List Byte) (b : Byte) :
    (countedSymbols d).count (byteSymbol b) = d.count b := by
  simp [countedSymbols, List.count_map_of_injective _ _ byteSymbol_injective, (byteSymbol_ne_sentinel b).symm]

@[simp] theorem count_sentinel_countedSymbols (d : List Byte) : (countedSymbols d).count sentinel = 1 := by
  have habsent : sentinel ∉ d.map byteSymbol := by simp [byteSymbol_ne_sentinel]
  rw [countedSymbols, List.count_append, List.count_eq_zero.mpr habsent, List.count_singleton_self]

theorem sum_count_allSymbols (xs : List Symbol) : (allSymbols.map fun x => xs.count x).sum = xs.length := by
  refine (Fin.sum_univ_def _).symm.trans ?_
  have h := Multiset.sum_count_eq_card (s := Finset.univ) (m := (xs : Multiset Symbol)) fun x _ => Finset.mem_univ x
  simpa only [Multiset.coe_count, Multiset.coe_card] using h

/-- R124: "for `CNT_W ≥ 1`, the sentinel's single increment never overflows", so only the bytes matter. -/
theorem countedSymbols_bounded_iff {n : Nat} (d : List Byte) (hn : 1 ≤ n) :
    (∀ x, (countedSymbols d).count x ≤ n) ↔ ∀ b, d.count b ≤ n := by
  refine ⟨fun h b => by simpa using h (byteSymbol b), fun h x => ?_⟩
  obtain rfl | ⟨b, rfl⟩ := eq_sentinel_or_byteSymbol x
  · simpa using hn
  · simpa using h b

theorem one_le_cntMax {c : Config} (h : c.Valid) : 1 ≤ c.cntMax := by
  obtain ⟨hwidth, -⟩ := h
  exact Nat.le_sub_one_of_lt (Nat.one_lt_two_pow (Nat.one_le_iff_ne_zero.mp hwidth))

/-- Settles O32: the pass is clean exactly when every symbol's count fits, and its counters are the counts of the file's
bytes and one sentinel, a list of `N + 1` symbols. -/
theorem countingPassConservesFrequency : Obligations.CountingPassConservesFrequency := by
  unfold Obligations.CountingPassConservesFrequency
  intro s d hvalid
  rw [runClean_countingPass]
  constructor
  · rw [Option.isSome_ite, countedSymbols_bounded_iff d (one_le_cntMax hvalid)]
  · intro t ht
    obtain ⟨-, hsome⟩ := Option.ite_none_right_eq_some.mp ht
    obtain rfl := Option.some.inj hsome
    refine ⟨?_, ?_, fun b => ?_⟩
    · calc (allSymbols.map (entry (countFile d))).sum
          = (allSymbols.map fun x => (countedSymbols d).count x).sum := by simp only [← entry_countFile]
        _ = (countedSymbols d).length := sum_count_allSymbols _
        _ = d.length + 1 := by simp [countedSymbols]
    · exact (entry_countFile d sentinel).trans (count_sentinel_countedSymbols d)
    · exact (entry_countFile d (byteSymbol b)).trans (count_byteSymbol_countedSymbols d b)

end Sys2Proof.Machine

/-! ## The tree builder -/

namespace Sys2Proof.Machine

/-- R133: the rule reads `FREQ` and writes the tree; the rest is the start and the end of a command. -/
theorem exec_treeBuild (s : State) : exec .treeBuild s = .next { s.completed with tree := buildTree s.freq } :=
  command_done (rule := fun s => .done { s with tree := buildTree s.freq }) rfl

/-! ### The order of the entries (R132) -/

/-- R132's key `(w, t)`, in the lexicographic order. -/
def Candidate.key (x : Candidate) : Nat ×ₗ Nat := toLex (x.w, x.t)

theorem Candidate.before_iff (x y : Candidate) : x.before y = true ↔ x.key < y.key := by
  simp [Candidate.before, Candidate.key, Prod.Lex.toLex_lt_toLex]

/-- R132: "the order is total", the tie-break numbers being distinct. -/
theorem Candidate.before_of_not_before {x y : Candidate} (hne : x.t ≠ y.t) (h : ¬ x.before y = true) :
    y.before x = true := by
  rw [Candidate.before_iff, not_lt] at h
  rw [Candidate.before_iff]
  exact lt_of_le_of_ne h fun hkey => hne (congrArg (fun p => (ofLex p).2) hkey).symm

/-- R132: "extract the lowest is always unique". -/
theorem Candidate.least_unique {x x' : Candidate} {p p' : List Candidate} (hperm : (x :: p).Perm (x' :: p'))
    (hx : ∀ z ∈ p, x.before z = true) (hx' : ∀ z ∈ p', x'.before z = true) : x = x' ∧ p.Perm p' := by
  have heq : x = x' := by
    rcases List.mem_cons.mp (hperm.subset List.mem_cons_self) with heq | hmem'
    · exact heq
    rcases List.mem_cons.mp (hperm.symm.subset List.mem_cons_self) with heq | hmem
    · exact heq.symm
    have hlt := (Candidate.before_iff _ _).mp (hx x' hmem)
    have hgt := (Candidate.before_iff _ _).mp (hx' x hmem')
    exact absurd hgt hlt.asymm
  subst heq
  exact ⟨rfl, hperm.cons_inv⟩

/-- R132: the tie-break numbers are distinct, and below that of the node the next merge makes. -/
structure Keyed (k : Nat) (P : List Candidate) : Prop where
  distinct : (P.map Candidate.t).Nodup
  below : ∀ x ∈ P, x.t < 257 + k

theorem Keyed.perm {k : Nat} {P Q : List Candidate} (h : Keyed k P) (hperm : P.Perm Q) : Keyed k Q where
  distinct := (hperm.map Candidate.t).nodup_iff.mp h.distinct
  below x hx := h.below x (hperm.mem_iff.mpr hx)

theorem Keyed.tail {k : Nat} {x : Candidate} {P : List Candidate} (h : Keyed k (x :: P)) : Keyed k P where
  distinct := (List.nodup_cons.mp h.distinct).2
  below z hz := h.below z (List.mem_cons_of_mem x hz)

/-- A merge numbers its node `257 + k`, a number not used yet. -/
theorem Keyed.merge {k : Nat} {P : List Candidate} (h : Keyed k P) (w : Nat) (t : CodeTree) :
    Keyed (k + 1) (P ++ [⟨w, 257 + k, t⟩]) where
  distinct := by
    have hnew : 257 + k ∉ P.map Candidate.t := fun hmem => by
      obtain ⟨x, hx, ht⟩ := List.mem_map.mp hmem
      exact absurd ht (Nat.ne_of_lt (h.below x hx))
    rw [List.map_append]
    exact h.distinct.append (List.nodup_singleton _) (List.disjoint_singleton.mpr hnew)
  below x hx := by
    rcases List.mem_append.mp hx with hold | hnew
    · exact Nat.lt_succ_of_lt (h.below x hold)
    · rw [List.mem_singleton.mp hnew]
      exact Nat.lt_succ_self _

theorem candidates_keyed (f : FreqTable) : Keyed 0 (candidates f) where
  distinct := by
    have htie : (candidates f).map Candidate.t = (leafSymbols f).map Fin.val := by
      simp [candidates_eq, leafCandidate]
    exact htie ▸ (leafSymbols_nodup f).map Fin.val_injective
  below x hx := by
    rw [candidates_eq] at hx
    obtain ⟨a, -, rfl⟩ := List.mem_map.mp hx
    exact a.isLt

/-! ### Greedy pairing (R133) -/

theorem extractLeast_before {k : Nat} {x : Candidate} {p : List Candidate} (h : Keyed k (x :: p)) :
    ∀ z ∈ (extractLeast x p).2, (extractLeast x p).1.before z = true := by
  induction p generalizing x with
  | nil => exact fun z hz => absurd hz List.not_mem_nil
  | cons y p ih =>
    have hleast := ih h.tail
    have hperm := extractLeast_perm y p
    rw [extractLeast]
    generalize extractLeast y p = e at hleast hperm ⊢
    obtain ⟨m, rest⟩ := e
    dsimp only at hleast hperm ⊢
    split
    case isTrue hm => exact List.forall_mem_cons.mpr ⟨hm, hleast⟩
    case isFalse hm =>
      have hne : m.t ≠ x.t := fun heq =>
        (List.nodup_cons.mp h.distinct).1 (List.mem_map.mpr ⟨m, hperm.subset List.mem_cons_self, heq⟩)
      have hxm := Candidate.before_of_not_before hne hm
      intro z hz
      rcases List.mem_cons.mp (hperm.symm.subset hz) with rfl | hrest
      · exact hxm
      · rw [Candidate.before_iff] at hxm ⊢
        exact hxm.trans ((Candidate.before_iff m z).mp (hleast z hrest))

/-- One turn of R133's loop: the least entry and the least of the others leave the structure, the first on the left of
the node that joins it. -/
theorem mergeLoop_takesLeast {k : Nat} {p q : Candidate} {r : List Candidate} (fuel : Nat)
    (h : Keyed k (p :: q :: r)) :
    ∃ x y rest, (p :: q :: r).Perm (x :: y :: rest) ∧ (∀ z ∈ y :: rest, x.before z = true) ∧
      (∀ z ∈ rest, y.before z = true) ∧
      mergeLoop (fuel + 1) k (p :: q :: r) =
        mergeLoop fuel (k + 1) (rest ++ [⟨x.w + y.w, 257 + k, .node x.tree y.tree⟩]) := by
  have hperm := (extractLeast_perm p (q :: r)).symm
  have hx := extractLeast_before h
  rw [mergeLoop]
  generalize extractLeast p (q :: r) = e at hperm hx ⊢
  obtain ⟨x, others⟩ := e
  cases others with
  | nil => exact absurd hperm.length_eq (by simp)
  | cons b others =>
    have hperm' := extractLeast_perm b others
    exact ⟨x, _, _, hperm.trans (hperm'.symm.cons x), fun z hz => hx z (hperm'.subset hz),
      extractLeast_before (h.perm hperm).tail, rfl⟩

theorem mergeLoop_greedy {fuel k : Nat} {P : List Candidate} {t : CodeTree} (hP : Keyed k P)
    (h : mergeLoop fuel k P = some t) : Greedy k P t := by
  induction fuel generalizing k P with
  | zero =>
    match P, h with
    | [x], h => exact Option.some.inj h ▸ .one k x
  | succ fuel ih =>
    match P, hP, h with
    | [x], _, h => exact Option.some.inj h ▸ .one k x
    | p :: q :: r, hP, h =>
      obtain ⟨x, y, rest, hperm, hx, hy, hloop⟩ := mergeLoop_takesLeast fuel hP
      have hrest : Keyed k rest := (hP.perm hperm).tail.tail
      exact .pair hperm hx hy (ih (hrest.merge _ _) (hloop.symm.trans h))

/-- R136: the order in which the entries stand does not matter. -/
theorem Greedy.unique {k : Nat} {P Q : List Candidate} {t u : CodeTree} (ht : Greedy k P t) (hu : Greedy k Q u)
    (hPQ : P.Perm Q) : t = u := by
  induction ht generalizing Q with
  | one k x =>
    cases hu with
    | one _ x' => rw [List.singleton_perm_singleton.mp hPQ]
    | pair whole => exact absurd (hPQ.trans whole).length_eq (by simp)
  | pair whole first second _ ih =>
    cases hu with
    | one => exact absurd (whole.symm.trans hPQ).length_eq (by simp)
    | pair whole' first' second' next' =>
      obtain ⟨rfl, hothers⟩ :=
        Candidate.least_unique (whole.symm.trans (hPQ.trans whole')) first first'
      obtain ⟨rfl, hrest⟩ := Candidate.least_unique hothers second second'
      exact ih next' (hrest.append_right _)

theorem initialEntries_eq_candidates (f : FreqTable) : initialEntries f = candidates f := (candidates_eq f).symm

/-- Settles O34: each turn of the loop is a turn of the relation, and the relation ends in one tree only. -/
theorem treeBuildPairsGreedily : Obligations.TreeBuildPairsGreedily := by
  unfold Obligations.TreeBuildPairsGreedily
  refine ⟨rfl, fun s => ?_⟩
  obtain ⟨t, ht, -⟩ := buildTree_ok s.freq
  have hgreedy : Greedy 0 (initialEntries s.freq) t :=
    initialEntries_eq_candidates s.freq ▸ mergeLoop_greedy (candidates_keyed s.freq) ht
  exact ⟨t, by rw [exec_treeBuild, ht], hgreedy, fun u hu => hu.unique hgreedy (.refl _)⟩

/-! ### The leaves (R131, R134) -/

theorem mem_leafSymbols_of_pos {f : FreqTable} {a : Symbol} (h : 0 < entry f a) : a ∈ leafSymbols f :=
  List.mem_append_left _ (List.mem_filter.mpr ⟨mem_allSymbols a, decide_eq_true h⟩)

/-- Padding only fills up to two, and 257 symbols are enough to reach two. -/
theorem length_leafSymbols (f : FreqTable) :
    (leafSymbols f).length = max 2 (allSymbols.filter fun a => decide (0 < entry f a)).length := by
  have htwo := two_le_length_leafSymbols f
  simp only [leafSymbols, List.length_append, List.length_take] at htwo ⊢
  omega

/-- An initial part of an ascending list holds, with an element, every smaller one of the list. -/
theorem mem_take_of_lt {l : List Symbol} (hl : l.Pairwise (· < ·)) {n : Nat} {a b : Symbol} (ha : a ∈ l.take n)
    (hb : b ∈ l) (hlt : b < a) : b ∈ l.take n := by
  rw [← List.take_append_drop n l] at hl hb
  rcases List.mem_append.mp hb with hearly | hlate
  · exact hearly
  · exact absurd ((List.pairwise_append.mp hl).2.2 a ha b hlate) hlt.asymm

/-- R131: the padding is "the smallest symbols with `FREQ[s] = 0`". -/
theorem mem_leafSymbols_of_lt_padding {f : FreqTable} {a b : Symbol} (ha : a ∈ leafSymbols f) (hzero : entry f a = 0)
    (hlt : b < a) (hb : entry f b = 0) : b ∈ leafSymbols f := by
  have hascending : (allSymbols.filter fun a => decide (entry f a = 0)).Pairwise (· < ·) :=
    (List.pairwise_lt_finRange 257).filter _
  refine List.mem_append_right _ (mem_take_of_lt hascending ?_ ?_ hlt)
  · refine (List.mem_append.mp ha).resolve_left fun hpos => ?_
    have := of_decide_eq_true (List.mem_filter.mp hpos).2
    omega
  · exact List.mem_filter.mpr ⟨mem_allSymbols b, decide_eq_true hb⟩

theorem buildTree_labels_perm {f : FreqTable} {t : CodeTree} (h : buildTree f = some t) :
    t.labels.Perm (leafSymbols f) := by
  have htwo : 2 ≤ (candidates f).length := by
    simpa [candidates_eq] using two_le_length_leafSymbols f
  obtain ⟨u, hu, hlabels, -⟩ :=
    mergeLoop_spec (candidates f).length 0 (candidates f) (List.length_pos_iff.mp (by omega)) (by omega)
  obtain rfl : u = t := Option.some.inj (hu.symm.trans h)
  have hleaves : (candidates f).flatMap Candidate.labels = leafSymbols f := by
    simp [candidates_eq, List.flatMap_map, leafCandidate, Candidate.labels, CodeTree.labels]
  exact hleaves ▸ hlabels

/-- Settles O33: the tree's labels are the symbols that get a leaf, in another order. -/
theorem treeBuildMakesAFullTree : Obligations.TreeBuildMakesAFullTree := by
  unfold Obligations.TreeBuildMakesAFullTree
  refine ⟨rfl, fun s => ?_⟩
  obtain ⟨t, ht, hnode, hnodup⟩ := buildTree_ok s.freq
  have hlabels := buildTree_labels_perm ht
  refine ⟨t, by rw [exec_treeBuild, ht], hnode, hnodup, fun a ha => ?_, ?_, fun a ha hzero b hlt hb => ?_⟩
  · exact hlabels.mem_iff.mpr (mem_leafSymbols_of_pos ha)
  · exact hlabels.length_eq.trans (length_leafSymbols s.freq)
  · exact hlabels.mem_iff.mpr (mem_leafSymbols_of_lt_padding (hlabels.mem_iff.mp ha) hzero hlt hb)

end Sys2Proof.Machine

/-! ## The canonicalizer -/

namespace Sys2Proof.Machine

/-! ### The length table (R147 to R151) -/

/-- R74, R252: a command on a symbol raises `SYMBOL_RANGE` when the operand is above 256. -/
theorem command_withSymbol_outOfRange {a : BitVec 9} (h : 256 < a.toNat) (rule : State → Symbol → Ending) (s : State) :
    command (fun s => withSymbol a s (rule s)) s = .next (s.failed .symbolRange (a.setWidth 32)) :=
  command_done (t := s.accept.report .symbolRange (a.setWidth 32)) (withSymbol_out (Nat.not_lt.mpr h) s.accept _)

/-- R71: a command on a symbol is its rule on that symbol. -/
theorem command_withSymbol_inRange {a : BitVec 9} {x : Symbol} (hx : x.val = a.toNat) (rule : State → Symbol → Ending)
    (s : State) : command (fun s => withSymbol a s (rule s)) s = command (fun s => rule s x) s := by
  simp only [withSymbol_of_val hx]

theorem exec_lenGet (a : BitVec 9) (s : State) : exec (.lenGet a) s =
    command (fun s => withSymbol a s fun x => .done (s.withResult (byteWord (entry s.len x)))) s := rfl

theorem exec_lenSet (a : BitVec 9) (v : Byte) (s : State) : exec (.lenSet a v) s =
    command (fun s => withSymbol a s fun x => .done { s with len := setEntry s.len x v }) s := rfl

theorem exec_lenClr (s : State) : exec .lenClr s = .next { s.completed with len := lenZero } :=
  command_done (rule := fun s => .done { s with len := lenZero }) rfl

theorem exec_lenEmit (s : State) : exec .lenEmit s = .next { s.completed with out := s.out ++ s.len.toList } :=
  command_done (rule := fun s => .done (s.outWriteAll s.len.toList)) rfl

/-- Settles O38: each command is one plain rule on the table, but for the symbol range. -/
theorem lengthTableCommands : Obligations.LengthTableCommands := by
  unfold Obligations.LengthTableCommands
  refine ⟨fun a v => ⟨packWord_zero 0x42#8 a, rfl⟩, rfl, rfl, fun s => ⟨⟨lenZero, exec_lenClr s, entry_lenZero⟩,
    ⟨s.len.toList, exec_lenEmit s, s.len.length_toList, fun x => by simp [entry]⟩, fun a v =>
    ⟨fun h => ⟨?_, ?_⟩, fun x hx => ⟨?_, setEntry s.len x v, ?_, entry_setEntry_same s.len x v,
      fun y hy => entry_setEntry_other s.len v hy⟩⟩⟩⟩
  · rw [exec_lenGet, command_withSymbol_outOfRange h]
  · rw [exec_lenSet, command_withSymbol_outOfRange h]
  · rw [exec_lenGet, command_withSymbol_inRange hx]; rfl
  · rw [exec_lenSet, command_withSymbol_inRange hx]; rfl

theorem exec_lenLoad (s : State) : exec .lenLoad s = execLenLoad s := rfl

theorem exec_lenLoad_full {s u : State} {bs : List Byte} (h : inReadTable s.accept = .full bs u) :
    exec .lenLoad s = .next { u with len := tableOfBytes bs }.complete := by
  rw [exec_lenLoad, execLenLoad]
  exact command_done (by simp only [h])

theorem exec_lenLoad_short {s u : State} {n : Nat} (h : inReadTable s.accept = .short n u) :
    exec .lenLoad s = .next (u.setEnd.report .truncated (BitVec.ofNat 32 n)).complete := by
  rw [exec_lenLoad, execLenLoad]
  exact command_done (by simp only [h, raise_eq])

theorem exec_lenLoad_hold {s : State} (h : inReadTable s.accept = .hold) : exec .lenLoad s = .next s.held := by
  rw [exec_lenLoad, execLenLoad]
  exact command_hold (by simp only [h])

section
variable {s : State}

theorem inReadTable_full {bs rest : List Byte} (hlen : bs.length = 257) (hinq : s.inq = bs ++ rest) :
    inReadTable s = .full bs { s with inq := rest } :=
  (inReadMany_eq 257 [] s).trans (by simp [hinq, ← hlen])

theorem inReadTable_short (hlen : s.inq.length < 257) (heos : s.eos = true) :
    inReadTable s = .short s.inq.length { s with inq := [] } :=
  (inReadMany_eq 257 [] s).trans (by simp [Nat.not_le.mpr hlen, heos])

theorem inReadTable_hold (hlen : s.inq.length < 257) (heos : s.eos = false) : inReadTable s = .hold :=
  (inReadMany_eq 257 [] s).trans (by simp [Nat.not_le.mpr hlen, heos])

end

/-- Settles O39: the command ends as reading the 257 bytes does. -/
theorem lenLoadReadsTheTable : Obligations.LenLoadReadsTheTable := by
  unfold Obligations.LenLoadReadsTheTable
  refine ⟨rfl, fun s => ⟨fun bytes rest hlen hinq => ⟨tableOfBytes bytes, ?_, fun x => ?_⟩, fun hlen heos => ?_,
    fun hlen heos => ?_⟩⟩
  · exact exec_lenLoad_full (inReadTable_full (s := s.accept) hlen hinq)
  · simp [entry_tableOfBytes, hlen]
  · exact exec_lenLoad_short (inReadTable_short (s := s.accept) hlen heos)
  · exact exec_lenLoad_hold (inReadTable_hold (s := s.accept) hlen heos)

/-! ### Leaves and depths -/

theorem map_fst_depths (t : CodeTree) (d : Nat) : (t.depths d).map Prod.fst = t.labels := by
  induction t generalizing d with
  | leaf a => rfl
  | node l r ihl ihr => simp [CodeTree.depths, CodeTree.labels, ihl, ihr]

theorem mem_labels_iff {t : CodeTree} {a : Symbol} (d : Nat) : a ∈ t.labels ↔ ∃ e, (a, e) ∈ t.depths d := by
  simp [← map_fst_depths t d]

theorem le_depth {t : CodeTree} {d : Nat} {p : Symbol × Nat} (h : p ∈ t.depths d) : d ≤ p.2 := by
  induction t generalizing d with
  | leaf a => rw [List.mem_singleton.mp h]
  | node l r ihl ihr =>
    rcases List.mem_append.mp h with h | h
    · exact Nat.le_of_succ_le (ihl h)
    · exact Nat.le_of_succ_le (ihr h)

/-- R135: no leaf of a node is at the root. -/
theorem depth_pos {t : CodeTree} (ht : t.isNode = true) {p : Symbol × Nat} (h : p ∈ t.depths 0) : 0 < p.2 := by
  cases t with
  | leaf a => cases ht
  | node l r => exact (List.mem_append.mp h).elim le_depth le_depth

theorem depthFrom_eq_none {t : CodeTree} {a : Symbol} {d : Nat} (h : a ∉ t.labels) : depthFrom a t d = none := by
  induction t generalizing d with
  | leaf b => simpa [depthFrom, CodeTree.labels, eq_comm] using h
  | node l r ihl ihr =>
    simp only [CodeTree.labels, List.mem_append, not_or] at h
    simp [depthFrom, ihl h.1, ihr h.2]

/-- Where no symbol labels two leaves, the walk of R141 finds each leaf. -/
theorem depthFrom_of_mem {t : CodeTree} (hnodup : t.labels.Nodup) {a : Symbol} {d e : Nat} (h : (a, e) ∈ t.depths d) :
    depthFrom a t d = some e := by
  induction t generalizing d with
  | leaf b =>
    obtain ⟨rfl, rfl⟩ : a = b ∧ e = d := by simpa [CodeTree.depths] using h
    simp [depthFrom]
  | node l r ihl ihr =>
    obtain ⟨hl, hr, hdisjoint⟩ := List.nodup_append.mp hnodup
    rw [depthFrom]
    rcases List.mem_append.mp h with h | h
    · have hnot : a ∉ r.labels := fun hr => hdisjoint a ((mem_labels_iff _).mpr ⟨e, h⟩) a hr rfl
      rw [depthFrom_eq_none hnot, ihl hl h]
    · rw [ihr hr h]

theorem depthOf_eq_some_iff {t : CodeTree} (hnodup : t.labels.Nodup) {a : Symbol} {d : Nat} :
    depthOf t a = some d ↔ (a, d) ∈ t.depths 0 := by
  refine ⟨fun h => ?_, depthFrom_of_mem hnodup⟩
  have ha : a ∈ t.labels := by
    by_contra hnot
    rw [depthOf, depthFrom_eq_none hnot] at h
    cases h
  obtain ⟨e, he⟩ := (mem_labels_iff 0).mp ha
  obtain rfl : e = d := Option.some.inj ((depthFrom_of_mem hnodup he).symm.trans h)
  exact he

/-! ### The lengths of a tree (R141) -/

/-- R9: a search in ascending order finds the least symbol. -/
theorem find?_allSymbols {p : Symbol → Bool} {x : Symbol} (hx : p x = true) (hmin : ∀ y, p y = true → x ≤ y) :
    allSymbols.find? p = some x := by
  refine List.find?_eq_some_iff_getElem.mpr ⟨hx, x.val, by simp [allSymbols], by simp [allSymbols], fun j hj => ?_⟩
  rw [Bool.not_eq_true', Bool.eq_false_iff]
  intro hp
  have hle : x ≤ ⟨j, hj.trans x.isLt⟩ := by simpa [allSymbols] using hmin _ hp
  exact absurd hle (not_le_of_gt hj)

section
variable {t : CodeTree}

theorem entry_lengthsOf_of_notMem {a : Symbol} (h : a ∉ t.labels) : entry (lengthsOf t) a = 0x00#8 := by
  simp [lengthsOf, depthOf, depthFrom_eq_none h]

theorem toNat_entry_lengthsOf (hnodup : t.labels.Nodup) {p : Symbol × Nat} (h : p ∈ t.depths 0) (hp : p.2 ≤ 255) :
    (entry (lengthsOf t) p.1).toNat = p.2 := by
  simp [lengthsOf, (depthOf_eq_some_iff hnodup).mpr h, Nat.lt_succ_of_le hp]

theorem tooDeep_test_iff (hnodup : t.labels.Nodup) (a : Symbol) :
    255 < (depthOf t a).getD 0 ↔ ∃ d, (a, d) ∈ t.depths 0 ∧ 255 < d := by
  simp only [← depthOf_eq_some_iff hnodup]
  cases depthOf t a <;> simp

theorem tooDeep_eq_none (hnodup : t.labels.Nodup) (h : ∀ p ∈ t.depths 0, p.2 ≤ 255) : tooDeep t = none := by
  simp only [tooDeep, tooDeep_test_iff hnodup, List.find?_eq_none, decide_eq_true_eq]
  rintro a - ⟨d, hd, hdeep⟩
  exact absurd (h _ hd) (Nat.not_le.mpr hdeep)

theorem tooDeep_eq_some (hnodup : t.labels.Nodup) {p : Symbol × Nat} (h : p ∈ t.depths 0) (hp : 255 < p.2)
    (hmin : ∀ q ∈ t.depths 0, 255 < q.2 → p.1 ≤ q.1) : tooDeep t = some p.1 := by
  refine find?_allSymbols (decide_eq_true ((tooDeep_test_iff hnodup p.1).mpr ⟨p.2, h, hp⟩)) fun a ha => ?_
  obtain ⟨d, hd, hdeep⟩ := (tooDeep_test_iff hnodup a).mp (of_decide_eq_true ha)
  exact hmin _ hd hdeep

end

/-! ### `LEN_FROM_TREE` (R141) -/

section
variable {s : State}

theorem exec_lenFromTree (s : State) : exec .lenFromTree s = execLenFromTree s := rfl

theorem exec_lenFromTree_noTree (h : s.tree = none) : exec .lenFromTree s = .next (s.failed .noTree 0#32) := by
  rw [exec_lenFromTree, execLenFromTree]
  exact command_done (t := s.accept.report .noTree 0#32) (by simp [h])

theorem exec_lenFromTree_overflow {t : CodeTree} {x : Symbol} (h : s.tree = some t) (hx : tooDeep t = some x) :
    exec .lenFromTree s = .next (s.failed .lengthOverflow (symbolWord x)) := by
  rw [exec_lenFromTree, execLenFromTree]
  exact command_done (t := s.accept.report .lengthOverflow (symbolWord x)) (by simp [h, hx])

theorem exec_lenFromTree_ok {t : CodeTree} (h : s.tree = some t) (hx : tooDeep t = none) :
    exec .lenFromTree s = .next { s.completed with len := lengthsOf t } := by
  rw [exec_lenFromTree, execLenFromTree]
  exact command_done (t := { s.accept with len := lengthsOf t }) (by simp [h, hx])

end

/-- Settles O35: a present symbol's depth is positive and fits a byte, so its entry is that depth and not 0. -/
theorem lenFromTreeWritesDepths : Obligations.LenFromTreeWritesDepths := by
  unfold Obligations.LenFromTreeWritesDepths
  refine ⟨rfl, fun s => ⟨exec_lenFromTree_noTree, fun t ht ⟨hnode, hnodup⟩ => ⟨fun hshallow =>
    ⟨lengthsOf t, exec_lenFromTree_ok ht (tooDeep_eq_none hnodup hshallow),
      fun p hp => toNat_entry_lengthsOf hnodup hp (hshallow p hp), fun a => ⟨fun hzero ha => ?_,
      entry_lengthsOf_of_notMem⟩⟩, fun p hp hdeep hmin =>
    exec_lenFromTree_overflow ht (tooDeep_eq_some hnodup hp hdeep hmin)⟩⟩⟩
  obtain ⟨d, hd⟩ := (mem_labels_iff 0).mp ha
  have hlength : (entry (lengthsOf t) a).toNat = d := toNat_entry_lengthsOf hnodup hd (hshallow _ hd)
  rw [hzero] at hlength
  exact absurd hlength (depth_pos hnode hd).ne

/-! ### Kraft's equality (R146) -/

/-- How many nodes of level `d` the leaves of the symbols of length at most `d` take the place of. -/
def fill (len : LenTable) (d : Nat) : Nat :=
  ∑ a : Symbol, if 0 < (entry len a).toNat ∧ (entry len a).toNat ≤ d then 2 ^ (d - (entry len a).toNat) else 0

theorem fill_zero (len : LenTable) : fill len 0 = 0 := by
  refine Finset.sum_eq_zero fun a _ => if_neg ?_
  omega

theorem length_leavesAt (len : LenTable) (d : Nat) :
    (leavesAt len d).length = ∑ a : Symbol, if (entry len a).toNat = d then 1 else 0 := by
  rw [Fin.sum_univ_def, List.sum_map_ite]
  simp [leavesAt, allSymbols]

/-- One level down a leaf's place doubles, and the leaves of that level join. -/
theorem fill_succ (len : LenTable) (d : Nat) : fill len (d + 1) = (leavesAt len (d + 1)).length + 2 * fill len d := by
  rw [length_leavesAt, fill, fill, Finset.mul_sum, ← Finset.sum_add_distrib]
  refine Finset.sum_congr rfl fun a _ => ?_
  rcases Nat.lt_trichotomy (entry len a).toNat (d + 1) with h | h | h
  · have hle : (entry len a).toNat ≤ d := Nat.lt_succ_iff.mp h
    simp [h.ne, h.le, hle, Nat.succ_sub hle, pow_succ']
  · simp [h]
  · simp [h.ne', Nat.not_le.mpr h, Nat.not_le.mpr (Nat.lt_of_succ_lt h)]

/-- R11: what a symbol adds to the Kraft sum. -/
def kraftTerm (len : LenTable) (a : Symbol) : Rat :=
  if (entry len a).toNat = 0 then 0 else (1 / 2) ^ (entry len a).toNat

theorem kraftTerm_of_zero {len : LenTable} {a : Symbol} (h : (entry len a).toNat = 0) : kraftTerm len a = 0 :=
  if_pos h

theorem kraftTerm_of_pos {len : LenTable} {a : Symbol} (h : 0 < (entry len a).toNat) :
    kraftTerm len a = (1 / 2) ^ (entry len a).toNat :=
  if_neg h.ne'

theorem kraftSum_eq (len : LenTable) : kraftSum len = ∑ a : Symbol, kraftTerm len a :=
  (Fin.sum_univ_def _).symm

theorem half_pow_mul_two_pow {n d : Nat} (h : n ≤ d) : (1 / 2 : Rat) ^ n * 2 ^ d = 2 ^ (d - n) := by
  rw [pow_sub₀ _ two_ne_zero h, one_div, inv_pow, mul_comm]

/-- R11, R146: the Kraft sum, counted in nodes of a level at which or above which all leaves are. -/
theorem kraftSum_mul_two_pow {len : LenTable} {d : Nat} (h : ∀ a, (entry len a).toNat ≤ d) :
    kraftSum len * 2 ^ d = fill len d := by
  rw [kraftSum_eq, fill, Finset.sum_mul, Nat.cast_sum]
  refine Finset.sum_congr rfl fun a _ => ?_
  rcases Nat.eq_zero_or_pos (entry len a).toNat with hzero | hpos
  · simp [kraftTerm_of_zero hzero, hzero]
  · rw [kraftTerm_of_pos hpos, if_pos ⟨hpos, h a⟩, half_pow_mul_two_pow (h a)]
    norm_cast

/-! ### Reconstruction succeeds exactly on Kraft's equality (R142, R146) -/

/-- R142: pairing succeeds exactly on lists of even length, and halves them. -/
theorem pairUp_length_iff (ts : List CodeTree) (k : Nat) :
    (∃ up, pairUp ts = some up ∧ up.length = k) ↔ ts.length = 2 * k := by
  induction ts using pairUp.induct generalizing k with
  | case1 => simp [pairUp, eq_comm]
  | case2 => simp [pairUp]; omega
  | case3 a b r ih =>
    cases k with
    | zero => simp [pairUp]
    | succ k =>
      have hlength : (a :: b :: r).length = 2 * (k + 1) ↔ r.length = 2 * k := by simp; omega
      rw [hlength, ← ih k]
      simp [pairUp]

/-- R142's loop ends with `k` trees exactly when the trees it carries and the leaves it will add fill the level it is at
`k` times. -/
theorem reconLevels_length_iff (len : LenTable) (d : Nat) (ts : List CodeTree) (k : Nat) :
    (∃ us, reconLevels len d ts = some us ∧ us.length = k) ↔ ts.length + fill len d = k * 2 ^ d := by
  induction d generalizing ts with
  | zero => simp [reconLevels, fill_zero]
  | succ d ih =>
    rw [reconLevels, fill_succ, pow_succ, ← mul_assoc]
    constructor
    · rintro ⟨us, hus, hk⟩
      split at hus
      case h_2 => cases hus
      case h_1 up hup =>
        have hpaired := (pairUp_length_iff _ up.length).mp ⟨up, hup, rfl⟩
        have hrest := (ih up).mp ⟨us, hus, hk⟩
        rw [List.length_append] at hpaired
        omega
    · intro hfull
      obtain ⟨up, hup, hlength⟩ := (pairUp_length_iff (ts ++ leavesAt len (d + 1)) (k * 2 ^ d - fill len d)).mpr
        (by rw [List.length_append]; omega)
      rw [hup]
      exact (ih up).mpr (by omega)

theorem le_maxLength (len : LenTable) (a : Symbol) : (entry len a).toNat ≤ maxLength len := by
  have hfold : ∀ (ss : List Symbol) (m : Nat), m ≤ ss.foldl (fun m s => max m (entry len s).toNat) m ∧
      (a ∈ ss → (entry len a).toNat ≤ ss.foldl (fun m s => max m (entry len s).toNat) m) := by
    intro ss
    induction ss with
    | nil => simp
    | cons s ss ih =>
      intro m
      obtain ⟨hstart, hmem⟩ := ih (max m (entry len s).toNat)
      refine ⟨(le_max_left _ _).trans hstart, fun ha => ?_⟩
      rcases List.mem_cons.mp ha with rfl | ha
      · exact (le_max_right _ _).trans hstart
      · exact hmem ha
  exact (hfold allSymbols 0).2 (mem_allSymbols a)

theorem recon_eq_some_iff {len : LenTable} {t : CodeTree} :
    recon len = some t ↔ reconLevels len (maxLength len) [] = some [t] := by
  unfold recon
  split
  case isTrue h => simp [h, reconLevels]
  case isFalse h =>
    split
    case h_1 u hlevels => simp [hlevels]
    all_goals simp_all

/-- R146: the Kraft law. -/
theorem exists_recon_iff (len : LenTable) : (∃ t, recon len = some t) ↔ kraftSum len = 1 := by
  have hloop := reconLevels_length_iff len (maxLength len) [] 1
  have hkraft := kraftSum_mul_two_pow (le_maxLength len)
  have hpow : (2 : Rat) ^ maxLength len ≠ 0 := pow_ne_zero _ two_ne_zero
  calc (∃ t, recon len = some t)
      ↔ ∃ us, reconLevels len (maxLength len) [] = some us ∧ us.length = 1 := by
        simp [recon_eq_some_iff, List.length_eq_one_iff]
    _ ↔ fill len (maxLength len) = 2 ^ maxLength len := by simpa using hloop
    _ ↔ kraftSum len * 2 ^ maxLength len = 2 ^ maxLength len := by 
        rw [hkraft, ← Nat.cast_inj (R := Rat), Nat.cast_pow, Nat.cast_two]
    _ ↔ kraftSum len = 1 := mul_eq_right₀ hpow

/-- R146: below any node, the leaves fill the node. -/
theorem sum_half_pow_depths (t : CodeTree) (d : Nat) :
    ((t.depths d).map fun p => (1 / 2 : Rat) ^ p.2).sum = (1 / 2) ^ d := by
  induction t generalizing d with
  | leaf a => simp [CodeTree.depths]
  | node l r ihl ihr =>
    rw [CodeTree.depths, List.map_append, List.sum_append, ihl, ihr]
    ring

/-- R146: the depths of a full tree meet Kraft's equality. -/
theorem kraftSum_of_depths {t : CodeTree} (ht : t.Ok) {len : LenTable}
    (hpresent : ∀ p ∈ t.depths 0, (entry len p.1).toNat = p.2) (habsent : ∀ a, a ∉ t.labels → entry len a = 0x00#8) :
    kraftSum len = 1 := by
  obtain ⟨hnode, hnodup⟩ := ht
  have hon : ∀ p ∈ t.depths 0, kraftTerm len p.1 = (1 / 2) ^ p.2 := fun p hp => by
    have hlength := hpresent p hp
    rw [kraftTerm_of_pos (hlength ▸ depth_pos hnode hp), hlength]
  have hoff : ∀ a ∈ Finset.univ, a ∉ t.labels.toFinset → kraftTerm len a = 0 := fun a _ ha =>
    kraftTerm_of_zero (by rw [habsent a (by simpa using ha)]; rfl)
  calc kraftSum len
      = ∑ a ∈ t.labels.toFinset, kraftTerm len a := by
        rw [kraftSum_eq, Finset.sum_subset (Finset.subset_univ _) hoff]
    _ = ((t.depths 0).map fun p => kraftTerm len p.1).sum := by
        rw [List.sum_toFinset _ hnodup, ← map_fst_depths t 0, List.map_map]; rfl
    _ = ((t.depths 0).map fun p => (1 / 2 : Rat) ^ p.2).sum := by rw [List.map_congr_left hon]
    _ = 1 := by rw [sum_half_pow_depths, pow_zero]

/-! ### `TREE_FROM_LEN` (R143) -/

section
variable {s : State}

theorem exec_treeFromLen (s : State) : exec .treeFromLen s = execTreeFromLen s := rfl

theorem exec_treeFromLen_ok {t : CodeTree} (h : recon s.len = some t) :
    exec .treeFromLen s = .next { s.completed with tree := some t } := by
  rw [exec_treeFromLen, execTreeFromLen]
  exact command_done (t := { s.accept with tree := some t }) (by simp [h])

theorem exec_treeFromLen_nonCanonical (h : recon s.len = none) :
    exec .treeFromLen s = .next (s.failed .nonCanonical 0#32) := by
  rw [exec_treeFromLen, execTreeFromLen]
  exact command_done (t := s.accept.report .nonCanonical 0#32) (by simp [h])

end

/-- Settles O36, by the Kraft law. -/
theorem treeFromLenSucceedsExactlyOnKraft : Obligations.TreeFromLenSucceedsExactlyOnKraft := by
  unfold Obligations.TreeFromLenSucceedsExactlyOnKraft
  refine ⟨rfl, fun s => ⟨fun hkraft => ?_, fun hkraft => ?_, fun t ht hpresent habsent =>
    kraftSum_of_depths ht hpresent habsent⟩⟩
  · obtain ⟨t, ht⟩ := (exists_recon_iff s.len).mpr hkraft
    exact ⟨t, ht, exec_treeFromLen_ok ht⟩
  · refine exec_treeFromLen_nonCanonical (Option.eq_none_iff_forall_ne_some.mpr fun t ht => ?_)
    exact hkraft ((exists_recon_iff s.len).mp ⟨t, ht⟩)

/-! ### The leaves of the reconstructed tree (R142, R145) -/

/-- R142's order of the leaves, from level `d` up: deep ones first, at one depth by ascending symbol. -/
def canonicalLeaves (len : LenTable) : Nat → List (Symbol × Nat)
  | 0 => []
  | d + 1 => ((allSymbols.filter fun a => decide ((entry len a).toNat = d + 1)).map fun a => (a, d + 1)) ++
      canonicalLeaves len d

theorem mem_canonicalLeaves {len : LenTable} {d : Nat} {p : Symbol × Nat} :
    p ∈ canonicalLeaves len d ↔ 0 < p.2 ∧ p.2 ≤ d ∧ (entry len p.1).toNat = p.2 := by
  induction d with
  | zero => simp [canonicalLeaves]; omega
  | succ d ih =>
    obtain ⟨a, e⟩ := p
    simp only [canonicalLeaves, List.mem_append, List.mem_map, List.mem_filter, mem_allSymbols, decide_eq_true_eq,
      true_and, Prod.mk.injEq, ih]
    constructor
    · rintro (⟨b, hb, rfl, rfl⟩ | ⟨hpos, hle, hlength⟩)
      · exact ⟨d.succ_pos, le_rfl, hb⟩
      · exact ⟨hpos, Nat.le_succ_of_le hle, hlength⟩
    · rintro ⟨hpos, hle, hlength⟩
      rcases Nat.le_or_eq_of_le_succ hle with hle | rfl
      · exact .inr ⟨hpos, hle, hlength⟩
      · exact .inl ⟨a, hlength, rfl, rfl⟩

theorem canonicalLeaves_pairwise (len : LenTable) (d : Nat) :
    (canonicalLeaves len d).Pairwise fun p q => q.2 < p.2 ∨ (p.2 = q.2 ∧ p.1 < q.1) := by
  induction d with
  | zero => exact .nil
  | succ d ih =>
    refine List.pairwise_append.mpr ⟨?_, ih, fun p hp q hq => .inl ?_⟩
    · exact List.pairwise_map.mpr (((List.pairwise_lt_finRange 257).filter _).imp fun h => .inr ⟨rfl, h⟩)
    · obtain ⟨a, -, rfl⟩ := List.mem_map.mp hp
      obtain ⟨-, hle, -⟩ := mem_canonicalLeaves.mp hq
      exact Nat.lt_succ_of_le hle

theorem depths_leavesAt (len : LenTable) (d e : Nat) : (leavesAt len d).flatMap (·.depths e) =
    (allSymbols.filter fun a => decide ((entry len a).toNat = d)).map fun a => (a, e) := by
  rw [leavesAt, List.flatMap_map, List.map_eq_flatMap]
  rfl

/-- R142: a pair's leaves lie one level below the pair. -/
theorem depths_pairUp {ts up : List CodeTree} (h : pairUp ts = some up) (d : Nat) :
    up.flatMap (·.depths d) = ts.flatMap (·.depths (d + 1)) := by
  induction ts using pairUp.induct generalizing up with
  | case1 => cases h; rfl
  | case2 => cases h
  | case3 a b r ih =>
    obtain ⟨up, hr, rfl⟩ := Option.map_eq_some_iff.mp h
    simp [CodeTree.depths, ih hr]

/-- R142's loop puts the leaves it adds behind those it carries. -/
theorem depths_reconLevels {len : LenTable} {d : Nat} {ts us : List CodeTree} (h : reconLevels len d ts = some us) :
    us.flatMap (·.depths 0) = ts.flatMap (·.depths d) ++ canonicalLeaves len d := by
  induction d generalizing ts with
  | zero => cases h; simp [canonicalLeaves]
  | succ d ih =>
    rw [reconLevels] at h
    split at h
    case h_2 => cases h
    case h_1 up hup =>
      rw [ih h, depths_pairUp hup, List.flatMap_append, depths_leavesAt, canonicalLeaves, List.append_assoc]

theorem depths_recon {len : LenTable} {t : CodeTree} (h : recon len = some t) :
    t.depths 0 = canonicalLeaves len (maxLength len) := by
  simpa using depths_reconLevels (recon_eq_some_iff.mp h)

theorem mem_depths_recon {len : LenTable} {t : CodeTree} (h : recon len = some t) {a : Symbol} {d : Nat} :
    (a, d) ∈ t.depths 0 ↔ 0 < d ∧ (entry len a).toNat = d := by
  rw [depths_recon h, mem_canonicalLeaves]
  refine ⟨fun ⟨hpos, _, hlength⟩ => ⟨hpos, hlength⟩, fun ⟨hpos, hlength⟩ => ⟨hpos, ?_, hlength⟩⟩
  exact hlength ▸ le_maxLength len a

/-- R145: a reconstructed tree has the lengths it was made from. -/
theorem lengthsOf_recon {len : LenTable} {t : CodeTree} (h : recon len = some t) : lengthsOf t = len := by
  obtain ⟨⟨-, hnodup⟩, -⟩ := recon_ok h
  refine table_ext fun a => ?_
  rcases Nat.eq_zero_or_pos (entry len a).toNat with hzero | hpos
  · have ha : a ∉ t.labels := by
      rw [mem_labels_iff 0]
      rintro ⟨d, hd⟩
      have := (mem_depths_recon h).mp hd
      omega
    rw [entry_lengthsOf_of_notMem ha]
    exact (BitVec.eq_of_toNat_eq hzero).symm
  · have hmem : (a, (entry len a).toNat) ∈ t.depths 0 := (mem_depths_recon h).mpr ⟨hpos, rfl⟩
    exact BitVec.eq_of_toNat_eq (toNat_entry_lengthsOf hnodup hmem (Nat.le_of_lt_succ (entry len a).isLt))

theorem tooDeep_recon {len : LenTable} {t : CodeTree} (h : recon len = some t) : tooDeep t = none := by
  refine tooDeep_eq_none (recon_ok h).1.2 fun p hp => ?_
  obtain ⟨-, hlength⟩ := (mem_depths_recon h).mp hp
  exact hlength ▸ Nat.le_of_lt_succ (entry len p.1).isLt

/-- Settles O37: the leaves of the reconstructed tree are R142's, in its order. -/
theorem reconstructedDepthsAreTheLengths : Obligations.ReconstructedDepthsAreTheLengths := by
  unfold Obligations.ReconstructedDepthsAreTheLengths
  intro len t h
  obtain ⟨⟨hnode, hnodup⟩, -⟩ := recon_ok h
  refine ⟨hnode, hnodup, fun a d => mem_depths_recon h, ?_, ?_⟩
  · exact depths_recon h ▸ canonicalLeaves_pairwise len (maxLength len)
  · rintro s rfl hs
    constructor
    · rw [exec_lenFromTree_ok hs (tooDeep_recon h), lengthsOf_recon h]
      rfl
    · rw [exec_treeFromLen_ok h, ← hs]
      rfl

end Sys2Proof.Machine

/-! ## The code table and the encoder -/

namespace Sys2Proof.Machine

/-! ### The paths of a tree are its codes (R160) -/

theorem codeOf_node_right {a : Symbol} {l r : CodeTree} {x : Bits} (h : codeOf a r = some x) :
    codeOf a (.node l r) = some (true :: x) := by
  simp [codeOf, h]

theorem codeOf_node_left {a : Symbol} {l r : CodeTree} (h : codeOf a r = none) :
    codeOf a (.node l r) = (codeOf a l).map (false :: ·) := by
  simp [codeOf, h]

/-- A symbol's code is as long as its leaf is deep (R135, R160). -/
theorem depthFrom_eq_map_codeOf (a : Symbol) (t : CodeTree) (d : Nat) :
    depthFrom a t d = (codeOf a t).map fun x => d + x.length := by
  induction t generalizing d with
  | leaf b => simp [depthFrom, codeOf, apply_ite]
  | node l r ihl ihr =>
    rw [depthFrom, ihl, ihr]
    cases hr : codeOf a r with
    | none => simp [codeOf_node_left hr, Function.comp_def, Nat.add_right_comm, Nat.add_assoc]
    | some x => simp [codeOf_node_right hr, Nat.add_right_comm, Nat.add_assoc]

theorem codeOf_eq_none {t : CodeTree} {a : Symbol} (h : a ∉ t.labels) : codeOf a t = none := by
  simpa [depthFrom_eq_map_codeOf] using depthFrom_eq_none (d := 0) h

theorem mem_labels_of_codeOf {t : CodeTree} {a : Symbol} {x : Bits} (h : codeOf a t = some x) : a ∈ t.labels := by
  by_contra hnot
  rw [codeOf_eq_none hnot] at h
  cases h

/-- Where no symbol labels two leaves, the walk of R160 finds the path to each leaf. -/
theorem mem_paths_iff {t : CodeTree} (hnodup : t.labels.Nodup) {a : Symbol} {p q : Bits} :
    (a, q) ∈ t.paths p ↔ ∃ x, codeOf a t = some x ∧ p ++ x = q := by
  induction t generalizing p with
  | leaf b => simp [CodeTree.paths, codeOf, eq_comm]
  | node l r ihl ihr =>
    obtain ⟨hl, hr, hdisjoint⟩ := List.nodup_append.mp hnodup
    rw [CodeTree.paths, List.mem_append, ihl hl, ihr hr]
    constructor
    · rintro (⟨x, hx, rfl⟩ | ⟨x, hx, rfl⟩)
      · have hnot : a ∉ r.labels := fun har => hdisjoint a (mem_labels_of_codeOf hx) a har rfl
        exact ⟨false :: x, by simp [codeOf_node_left (codeOf_eq_none hnot), hx], by simp⟩
      · exact ⟨true :: x, codeOf_node_right hx, by simp⟩
    · rintro ⟨x, hx, rfl⟩
      rcases codeOf_node hx with ⟨y, hy, rfl⟩ | ⟨y, hy, rfl⟩
      · exact .inr ⟨y, hy, by simp⟩
      · exact .inl ⟨y, hy, by simp⟩

theorem codeOf_eq_some_iff {t : CodeTree} (hnodup : t.labels.Nodup) {a : Symbol} {x : Bits} :
    codeOf a t = some x ↔ (a, x) ∈ t.paths [] := by
  simp [mem_paths_iff hnodup]

theorem depths_eq_map_paths (t : CodeTree) (p : Bits) :
    t.depths p.length = (t.paths p).map fun q => (q.1, q.2.length) := by
  induction t generalizing p with
  | leaf a => rfl
  | node l r ihl ihr => simp [CodeTree.depths, CodeTree.paths, ← ihl, ← ihr]

/-- R141, R160: the two rules look for the same symbol. -/
theorem tooLong_eq_tooDeep (t : CodeTree) : tooLong t = tooDeep t := by
  have hlength : ∀ a, ((codeOf a t).getD []).length = (depthOf t a).getD 0 := fun a => by
    rw [depthOf, depthFrom_eq_map_codeOf]
    cases codeOf a t <;> simp
  simp only [tooLong, tooDeep, hlength]

section
variable {t : CodeTree}

theorem mem_depths_of_mem_paths {p : Symbol × Bits} (h : p ∈ t.paths []) : (p.1, p.2.length) ∈ t.depths 0 :=
  depths_eq_map_paths t [] ▸ List.mem_map_of_mem h

theorem forall_mem_depths_iff {P : Symbol × Nat → Prop} :
    (∀ p ∈ t.depths 0, P p) ↔ ∀ p ∈ t.paths [], P (p.1, p.2.length) := by
  rw [show t.depths 0 = _ from depths_eq_map_paths t [], List.forall_mem_map]

theorem tooLong_eq_none (hnodup : t.labels.Nodup) (h : ∀ p ∈ t.paths [], p.2.length ≤ 255) : tooLong t = none :=
  (tooLong_eq_tooDeep t).trans (tooDeep_eq_none hnodup (forall_mem_depths_iff.mpr h))

theorem tooLong_eq_some (hnodup : t.labels.Nodup) {p : Symbol × Bits} (h : p ∈ t.paths []) (hp : 255 < p.2.length)
    (hmin : ∀ q ∈ t.paths [], 255 < q.2.length → p.1 ≤ q.1) : tooLong t = some p.1 :=
  (tooLong_eq_tooDeep t).trans (tooDeep_eq_some hnodup (mem_depths_of_mem_paths h) hp (forall_mem_depths_iff.mpr hmin))

end

/-! ### `CODE_GEN` (R160) -/

section
variable {s : State}

theorem exec_codeGen (s : State) : exec .codeGen s = execCodeGen s := rfl

theorem exec_codeGen_noTree (h : s.tree = none) : exec .codeGen s = .next (s.failed .noTree 0#32) := by
  rw [exec_codeGen, execCodeGen]
  exact command_done (t := s.accept.report .noTree 0#32) (by simp [h])

theorem exec_codeGen_overflow {t : CodeTree} {x : Symbol} (h : s.tree = some t) (hx : tooLong t = some x) :
    exec .codeGen s = .next (s.failed .lengthOverflow (symbolWord x)) := by
  rw [exec_codeGen, execCodeGen]
  exact command_done (t := s.accept.report .lengthOverflow (symbolWord x)) (by simp [h, hx])

theorem exec_codeGen_ok {t : CodeTree} (h : s.tree = some t) (hx : tooLong t = none) :
    exec .codeGen s = .next { s.completed with code := some (codesOf t) } := by
  rw [exec_codeGen, execCodeGen]
  exact command_done (t := { s.accept with code := some (codesOf t) }) (by simp [h, hx])

end

/-- Settles O40: the code of a symbol is the path to its leaf, and the codes of a tree that meets R30 meet R32. -/
theorem codeGenGivesThePaths : Obligations.CodeGenGivesThePaths := by
  unfold Obligations.CodeGenGivesThePaths
  refine ⟨rfl, fun s => ⟨exec_codeGen_noTree, fun t ht hok => ?_⟩⟩
  have ⟨_, hnodup⟩ := hok
  refine ⟨fun hshort => ?_, fun p hp hlong hmin => exec_codeGen_overflow ht (tooLong_eq_some hnodup hp hlong hmin)⟩
  have hfits := tooLong_eq_none hnodup hshort
  obtain ⟨hlength, hfree⟩ := codesOf_ok hok (length_codeOf_le_of_tooLong hfits)
  refine ⟨codesOf t, exec_codeGen_ok ht hfits, fun p hp => ?_, fun a ha => ?_, fun a x hx => (hlength a x hx).1, hfree⟩
  · rw [codesOf, entry_tabulate, codeOf_eq_some_iff hnodup]
    exact hp
  · rw [codesOf, entry_tabulate, codeOf_eq_none ha]

/-! ### `CODE_LEN` and `CODE_BIT` (R162, R163) -/

section
variable {s : State} {a : BitVec 9} {x : Symbol}

theorem symbolWord_of_val (hx : x.val = a.toNat) : symbolWord x = a.setWidth 32 := by
  rw [symbolWord, hx, BitVec.ofNat_toNat]

theorem codeFor_of_noTable (h : s.code = none) (x : Symbol) : s.codeFor x = none := by
  simp [State.codeFor, h]

theorem codeFor_of_table {c : CodeTable} (h : s.code = some c) (x : Symbol) : s.codeFor x = entry c x := by
  simp [State.codeFor, h]

@[simp] theorem codeFor_accept (s : State) (x : Symbol) : s.accept.codeFor x = s.codeFor x := rfl

theorem exec_codeLen (a : BitVec 9) (s : State) : exec (.codeLen a) s = execCodeLen a s := rfl

theorem exec_codeLen_outOfRange (h : 256 < a.toNat) :
    exec (.codeLen a) s = .next (s.failed .symbolRange (a.setWidth 32)) := by
  rw [exec_codeLen, execCodeLen, command_withSymbol_outOfRange h]

theorem exec_codeLen_noTable (hx : x.val = a.toNat) (h : s.code = none) :
    exec (.codeLen a) s = .next (s.failed .noCode (a.setWidth 32)) := by
  rw [exec_codeLen, execCodeLen, command_withSymbol_inRange hx, ← symbolWord_of_val hx]
  exact command_done (t := s.accept.report .noCode (symbolWord x)) (by simp [h])

theorem exec_codeLen_ok (hx : x.val = a.toNat) {c : CodeTable} (h : s.code = some c) :
    exec (.codeLen a) s = .next { s.completed with result := BitVec.ofNat 32 ((entry c x).getD []).length } := by
  rw [exec_codeLen, execCodeLen, command_withSymbol_inRange hx]
  exact command_done (t := s.accept.withResult (BitVec.ofNat 32 ((entry c x).getD []).length)) (by simp [h])

theorem exec_codeBit (a : BitVec 9) (v : Byte) (s : State) : exec (.codeBit a v) s = execCodeBit a v s := rfl

theorem exec_codeBit_outOfRange (h : 256 < a.toNat) (v : Byte) :
    exec (.codeBit a v) s = .next (s.failed .symbolRange (a.setWidth 32)) := by
  rw [exec_codeBit, execCodeBit, command_withSymbol_outOfRange h]

theorem exec_codeBit_noCode (hx : x.val = a.toNat) (h : s.codeFor x = none) (v : Byte) :
    exec (.codeBit a v) s = .next (s.failed .noCode (a.setWidth 32)) := by
  rw [exec_codeBit, execCodeBit, command_withSymbol_inRange hx, ← symbolWord_of_val hx]
  exact command_done (t := s.accept.report .noCode (symbolWord x)) (by simp [h])

theorem exec_codeBit_pastEnd (hx : x.val = a.toNat) {bits : Bits} (h : s.codeFor x = some bits) {v : Byte}
    (hv : bits.length ≤ v.toNat) : exec (.codeBit a v) s = .next (s.failed .indexRange (v.setWidth 32)) := by
  rw [exec_codeBit, execCodeBit, command_withSymbol_inRange hx]
  exact command_done (t := s.accept.report .indexRange (byteWord v)) (by simp [h, hv])

theorem exec_codeBit_ok (hx : x.val = a.toNat) {bits : Bits} (h : s.codeFor x = some bits) {v : Byte} {b : Bool}
    (hb : bits[v.toNat]? = some b) :
    exec (.codeBit a v) s = .next { s.completed with result := if b = true then 1#32 else 0#32 } := by
  rw [exec_codeBit, execCodeBit, command_withSymbol_inRange hx, ← flagBit_setWidth]
  exact command_done (t := s.accept.withResult ((flagBit b).setWidth 32)) (by simp [h, hb])

end

/-- Settles O41: the checks of each rule in its order; a present code has a length and the bits before it. -/
theorem codeInspectionCommands : Obligations.CodeInspectionCommands := by
  unfold Obligations.CodeInspectionCommands
  refine ⟨fun a v => ⟨packWord_zero 0x51#8 a, rfl⟩, fun s a v => ⟨fun h =>
    ⟨exec_codeLen_outOfRange h, exec_codeBit_outOfRange h v⟩, fun h hnone => ?_, fun c x hc hx =>
    ⟨fun habsent => ⟨?_, ?_⟩, fun bits hbits => ⟨?_, fun hv => ?_, fun b hb => ?_⟩⟩⟩⟩
  · have hx : (⟨a.toNat, Nat.lt_succ_of_le h⟩ : Symbol).val = a.toNat := rfl
    exact ⟨exec_codeLen_noTable hx hnone, exec_codeBit_noCode hx (codeFor_of_noTable hnone _) v⟩
  · rw [exec_codeLen_ok hx hc, habsent]; rfl
  · exact exec_codeBit_noCode hx ((codeFor_of_table hc x).trans habsent) v
  · rw [exec_codeLen_ok hx hc, hbits]; rfl
  · exact exec_codeBit_pastEnd hx ((codeFor_of_table hc x).trans hbits) hv
  · exact exec_codeBit_ok hx ((codeFor_of_table hc x).trans hbits) hb

/-! ### `ENC_SYM` and `ENC_END` (R164 to R166) -/

theorem complete_bwPutAll (s : State) (x : Bits) : (s.bwPutAll x).complete = s.complete.bwPutAll x :=
  (List.foldl_hom State.complete fun s b => (complete_bwPut s b).symm).symm

section
variable {s : State} {a : BitVec 9} {x : Symbol} {bits : Bits}

theorem exec_encSym (a : BitVec 9) (s : State) : exec (.encSym a) s = execEncSym a s := rfl

theorem exec_encSym_outOfRange (h : 256 < a.toNat) :
    exec (.encSym a) s = .next (s.failed .symbolRange (a.setWidth 32)) := by
  rw [exec_encSym, execEncSym, command_withSymbol_outOfRange h]

theorem exec_encSym_noCode (hx : x.val = a.toNat) (h : s.codeFor x = none) :
    exec (.encSym a) s = .next (s.failed .noCode (a.setWidth 32)) := by
  rw [exec_encSym, execEncSym, command_withSymbol_inRange hx, ← symbolWord_of_val hx]
  exact command_done (t := s.accept.report .noCode (symbolWord x)) (by simp [h])

theorem exec_encSym_ok (hx : x.val = a.toNat) (h : s.codeFor x = some bits) :
    exec (.encSym a) s = .next (s.completed.bwPutAll bits) := by
  rw [exec_encSym, execEncSym, command_withSymbol_inRange hx, ← accept_complete, ← complete_bwPutAll]
  exact command_done (by simp only [codeFor_accept, h, State.enc])

theorem exec_encEnd (s : State) : exec .encEnd s = execEncEnd s := rfl

theorem exec_encEnd_noCode (h : s.codeFor sentinel = none) : exec .encEnd s = .next (s.failed .noCode 256#32) := by
  rw [exec_encEnd, execEncEnd]
  exact command_done (t := s.accept.report .noCode (symbolWord sentinel)) (by simp [h])

theorem exec_encEnd_ok (h : s.codeFor sentinel = some bits) :
    exec .encEnd s = .next (s.completed.bwPutAll bits).bwClose := by
  rw [exec_encEnd, execEncEnd, ← accept_complete, ← complete_bwPutAll, ← complete_bwClose]
  exact command_done (by simp only [codeFor_accept, h, State.enc])

end

/-- Settles O42: each command puts the bits of a code into the BitWriter, and `ENC_END` closes it after them. -/
theorem encoderCommands : Obligations.EncoderCommands := by
  unfold Obligations.EncoderCommands
  refine ⟨packWord_zero 0x53#8, rfl, fun s => ⟨fun a => exec_encSym_outOfRange, fun a h hnone => ?_, fun hnone =>
    exec_encEnd_noCode (codeFor_of_noTable hnone sentinel), fun c hc => ?_⟩⟩
  · have hx : (⟨a.toNat, Nat.lt_succ_of_le h⟩ : Symbol).val = a.toNat := rfl
    exact exec_encSym_noCode hx (codeFor_of_noTable hnone _)
  have hcode := codeFor_of_table hc
  refine ⟨fun a x hx habsent => exec_encSym_noCode hx ((hcode x).trans habsent), fun habsent =>
    exec_encEnd_noCode ((hcode sentinel).trans habsent), fun hbw =>
    ⟨fun a x bits hx hbits => ?_, fun bits hbits => ?_⟩⟩
  · obtain ⟨bytes, bw, hput, hle, hread⟩ := bwPutAll_bits bits (s := s.completed) hbw
    refine ⟨bytes, bw, ?_, hle, hread⟩
    rw [exec_encSym_ok hx ((hcode x).trans hbits), hput]
    rfl
  · obtain ⟨bytes, hclose, hread⟩ := bwClose_bwPutAll_bits bits (s := s.completed) hbw
    refine ⟨bytes, ?_, hread⟩
    rw [exec_encEnd_ok ((hcode sentinel).trans hbits), hclose]
    rfl

/-! ### The encoding pass of a file (R168) -/

/-- R62, R107: the bits of a byte make that byte. -/
theorem byteOfBits_byteBits (b : Byte) : byteOfBits (byteBits b) = b := by
  refine BitVec.eq_of_getLsbD_eq fun i hi => ?_
  have hindex : 7 - (8 - 1 - i) = i := by omega
  have hplace : 8 - 1 - i < 8 := by omega
  rw [byteOfBits, BitVec.getLsbD_ofNat, testBit_bitsValue, length_byteBits]
  simp [byteBits, hi, hindex, hplace]

theorem bytesOfBits_append {x : Bits} (h : x.length = 8) (rest : Bits) :
    bytesOfBits (x ++ rest) = byteOfBits x :: bytesOfBits rest := by
  match x, h with
  | [_, _, _, _, _, _, _, _], _ => rfl

/-- R168: cutting the bits of a sequence of bytes into bytes gives the sequence back. -/
theorem bytesOfBits_bitsOfBytes (bs : List Byte) : bytesOfBits (bitsOfBytes bs) = bs := by
  induction bs with
  | nil => rfl
  | cons b bs ih =>
    have hcons : bitsOfBytes (b :: bs) = byteBits b ++ bitsOfBytes bs := List.flatMap_cons
    rw [hcons, bytesOfBits_append (length_byteBits b), byteOfBits_byteBits, ih]

theorem payload_eq_of_bits {c : CodeTable} {d bytes : List Byte}
    (h : bitsOfBytes bytes = payloadBits c d ++ List.replicate (padCount (payloadBits c d).length) false) :
    payload c d = bytes := by
  rw [payload, ← h, bytesOfBits_bitsOfBytes]

theorem payloadBits_nil (c : CodeTable) : payloadBits c [] = (entry c sentinel).getD [] := rfl

theorem payloadBits_cons (c : CodeTable) (b : Byte) (d : List Byte) :
    payloadBits c (b :: d) = (entry c (byteSymbol b)).getD [] ++ payloadBits c d := by
  simp [payloadBits]

theorem encodingPass_cons (b : Byte) (d : List Byte) :
    encodingPass (b :: d) = .encSym (b.setWidth 9) :: encodingPass d := rfl

theorem byteSymbol_val (b : Byte) : (byteSymbol b).val = (b.setWidth 9).toNat := by
  rw [BitVec.toNat_setWidth, Nat.mod_eq_of_lt (b.isLt.trans (by decide)), byteSymbol]

theorem bwPutAll_append (s : State) (x y : Bits) : s.bwPutAll (x ++ y) = (s.bwPutAll x).bwPutAll y :=
  List.foldl_append

/-- A run of `ENC_SYM`s and an `ENC_END` is the primitives in a row, on all the bits of the payload. -/
theorem runClean_encodingPass {c : CodeTable} (d : List Byte) {s : State} (hc : s.code = some c)
    (hbytes : ∀ b ∈ d, (entry c (byteSymbol b)).isSome = true) (hsentinel : (entry c sentinel).isSome = true) :
    runClean (encodingPass d) s = some (s.completed.bwPutAll (payloadBits c d)).bwClose := by
  induction d generalizing s with
  | nil =>
    obtain ⟨bits, hbits⟩ := Option.isSome_iff_exists.mp hsentinel
    rw [payloadBits_nil, hbits]
    obtain ⟨out, bw, hput⟩ := bwPutAll_frame s.completed bits
    exact runClean_cons (exec_encEnd_ok ((codeFor_of_table hc _).trans hbits)) (by simp [hput]) (by simp [hput])
  | cons b d ih =>
    obtain ⟨hb, hrest⟩ := List.forall_mem_cons.mp hbytes
    obtain ⟨bits, hbits⟩ := Option.isSome_iff_exists.mp hb
    obtain ⟨out, bw, hput⟩ := bwPutAll_frame s.completed bits
    have hcode : (s.completed.bwPutAll bits).code = some c := by rw [hput]; exact hc
    have hdone : (s.completed.bwPutAll bits).completed = s.completed.bwPutAll bits := by rw [hput]; rfl
    have hstep := exec_encSym_ok (byteSymbol_val b) ((codeFor_of_table hc _).trans hbits)
    calc runClean (encodingPass (b :: d)) s
        = runClean (encodingPass d) (s.completed.bwPutAll bits) := by
          rw [encodingPass_cons, runClean_cons hstep (by rw [hput]; rfl) (by rw [hput]; rfl)]
      _ = some ((s.completed.bwPutAll bits).bwPutAll (payloadBits c d)).bwClose := by rw [ih hcode hrest, hdone]
      _ = some (s.completed.bwPutAll (payloadBits c (b :: d))).bwClose := by
          rw [payloadBits_cons, hbits, Option.getD_some, bwPutAll_append]

/-- R168: a payload holds at least the sentinel's code. -/
theorem length_payloadBits_pos {c : CodeTable} (hok : CodeTable.Ok c) (hsentinel : (entry c sentinel).isSome = true)
    (d : List Byte) : 1 ≤ (payloadBits c d).length := by
  obtain ⟨bits, hbits⟩ := Option.isSome_iff_exists.mp hsentinel
  obtain ⟨hpos, -⟩ := hok.1 sentinel bits hbits
  rw [payloadBits, hbits, List.length_append]
  exact Nat.le_add_left_of_le hpos

/-- Settles O43: the run is the primitives in a row, and the bytes they write read back as the payload's bits. -/
theorem encodingPassWritesThePayload : Obligations.EncodingPassWritesThePayload := by
  unfold Obligations.EncodingPassWritesThePayload
  intro s c d hc hok hempty hbytes hsentinel
  obtain ⟨bytes, hclose, hbits⟩ := bwClose_bwPutAll_bits (payloadBits c d) (s := s.completed) (by simp [hempty])
  have hread : bitsOfBytes bytes = payloadBits c d ++ List.replicate (padCount (payloadBits c d).length) false := by
    simpa [hempty] using hbits
  have hlength := length_of_bitsOfBytes_padded hread
  obtain rfl := payload_eq_of_bits hread
  refine ⟨?_, hlength, fun hnil => ?_, hread⟩
  · rw [runClean_encodingPass d hc hbytes hsentinel, hclose, ← hempty]
    rfl
  · have hpos := length_payloadBits_pos hok hsentinel d
    rw [hnil, List.length_nil] at hlength
    omega

end Sys2Proof.Machine

/-! ## The decoder -/

namespace Sys2Proof.Machine

/-! ### `BRGet` takes the first of the bits ahead (R101) -/

section
variable {s u v : State}

/-- `u` is `s` after its open reader took some bits: it has fewer than eight left, of the last byte taken from IN, or of
the byte it held when none was (R101). -/
def State.Advances (s u : State) : Prop :=
  ∃ taken q r, u = { s with inq := q, br := r } ∧ s.inq = taken ++ q ∧ r.buf = taken.getLast?.getD s.br.buf ∧
    r.closed = false ∧ r.rem ≤ 7

theorem State.Advances.refl (hopen : s.br.closed = false) (hrem : s.br.rem ≤ 7) : s.Advances s :=
  ⟨[], s.inq, s.br, rfl, rfl, rfl, hopen, hrem⟩

theorem State.Advances.isOpen (h : s.Advances u) : u.br.closed = false := by
  obtain ⟨_, _, _, rfl, _, _, hopen, _⟩ := h
  exact hopen

theorem State.Advances.rem_le (h : s.Advances u) : u.br.rem ≤ 7 := by
  obtain ⟨_, _, _, rfl, _, _, _, hrem⟩ := h
  exact hrem

theorem State.Advances.tree_eq (h : s.Advances u) : u.tree = s.tree := by
  obtain ⟨_, _, _, rfl, _⟩ := h
  rfl

theorem State.Advances.eos_eq (h : s.Advances u) : u.eos = s.eos := by
  obtain ⟨_, _, _, rfl, _⟩ := h
  rfl

theorem State.Advances.trans (h : s.Advances u) (h' : u.Advances v) : s.Advances v := by
  obtain ⟨taken, q, r, rfl, hinq, hbuf, _, _⟩ := h
  obtain ⟨taken', q', r', rfl, hinq', hbuf', hopen, hrem⟩ := h'
  refine ⟨taken ++ taken', q', r', rfl, by simp_all, ?_, hopen, hrem⟩
  simp [hbuf', hbuf, List.getLast?_append, Option.getD_or]

theorem State.Advances.complete (h : s.accept.Advances u) : s.completed.Advances u.complete := by
  obtain ⟨taken, q, r, rfl, hreader⟩ := h
  exact ⟨taken, q, r, rfl, hreader⟩

/-- `s` once its open reader has taken every byte of IN and all its bits. -/
def State.drained (s : State) : State := { s with inq := [], br := ⟨s.inq.getLast?.getD s.br.buf, 0, false⟩ }

theorem State.Advances.drained_eq (h : s.Advances u) : u.drained = s.drained := by
  obtain ⟨taken, q, r, rfl, hinq, hbuf, _, _⟩ := h
  simp [State.drained, hinq, hbuf, List.getLast?_append, Option.getD_or]

theorem bitsAhead_of_open (hopen : s.br.closed = false) : s.bitsAhead = s.br.pending ++ bitsOfBytes s.inq := by
  simp [State.bitsAhead, hopen]

@[simp] theorem length_pending (r : BitReader) : r.pending.length = r.rem := by
  simp [BitReader.pending]

theorem pending_succ (buf : Byte) (n : Nat) (closed closed' : Bool) :
    (⟨buf, n + 1, closed⟩ : BitReader).pending = buf.getLsbD n :: (⟨buf, n, closed'⟩ : BitReader).pending := by
  simp [BitReader.pending, List.range_succ_eq_map, Nat.sub_sub, Nat.add_comm]

theorem byteBits_eq_pending (c : Byte) : byteBits c = c.getLsbD 7 :: (⟨c, 7, false⟩ : BitReader).pending :=
  pending_succ c 7 false false

theorem rem_eq_zero_and_inq_eq_nil (hopen : s.br.closed = false) (h : s.bitsAhead = []) :
    s.br.rem = 0 ∧ s.inq = [] := by
  have hlength := congrArg List.length h
  rw [bitsAhead_of_open hopen, List.length_append, length_pending, length_bitsOfBytes, List.length_nil] at hlength
  exact ⟨by omega, List.length_eq_zero_iff.mp (by omega)⟩

theorem brGet_of_bitsAhead {b : Bool} {x : Bits} (hopen : s.br.closed = false) (hrem : s.br.rem ≤ 8)
    (h : s.bitsAhead = b :: x) : ∃ u, brGet s = .bit b u ∧ s.Advances u ∧ u.bitsAhead = x := by
  rw [bitsAhead_of_open hopen] at h
  cases hn : s.br.rem with
  | zero =>
    have hnone : s.br.pending = [] := by simp [BitReader.pending, hn]
    cases hinq : s.inq with
    | nil => simp [hnone, hinq, bitsOfBytes] at h
    | cons c q =>
      rw [hnone, hinq, List.nil_append, bitsOfBytes, List.flatMap_cons, byteBits_eq_pending, List.cons_append,
        List.cons.injEq] at h
      obtain ⟨rfl, rfl⟩ := h
      exact ⟨_, brGet_of_byteReady hopen hn hinq, ⟨[c], q, _, rfl, hinq, rfl, rfl, Nat.le_refl 7⟩,
        bitsAhead_of_open rfl⟩
  | succ n =>
    have hpending : s.br.pending = s.br.buf.getLsbD n :: (⟨s.br.buf, n, false⟩ : BitReader).pending := by
      rw [← pending_succ _ _ s.br.closed, ← hn]
    rw [hpending, List.cons_append, List.cons.injEq] at h
    obtain ⟨rfl, rfl⟩ := h
    have hget := brGet_of_bitHeld hopen (by omega : s.br.rem ≠ 0)
    rw [hn, Nat.add_sub_cancel] at hget
    exact ⟨_, hget, ⟨[], s.inq, _, rfl, rfl, rfl, rfl, by simp; omega⟩, bitsAhead_of_open rfl⟩

theorem brGet_of_noBitsAhead (hopen : s.br.closed = false) (h : s.bitsAhead = []) :
    brGet s = if s.eos = true then .atEnd else .hold := by
  obtain ⟨hrem, hinq⟩ := rem_eq_zero_and_inq_eq_nil hopen h
  cases heos : s.eos with
  | true => exact brGet_of_ended hopen hrem hinq heos
  | false => exact brGet_of_starved hopen hrem hinq heos

theorem drained_of_noBitsAhead (hopen : s.br.closed = false) (h : s.bitsAhead = []) : s.drained = s := by
  obtain ⟨hrem, hinq⟩ := rem_eq_zero_and_inq_eq_nil hopen h
  have hbr : s.br = ⟨s.br.buf, 0, false⟩ := by rw [← hrem, ← hopen]
  rw [State.drained, hinq, List.getLast?_nil, Option.getD_none, ← hbr, ← hinq]

end

/-! ### The walk follows the path of a leaf (R180) -/

theorem paths_eq_map (t : CodeTree) (p : Bits) : t.paths p = (t.paths []).map fun q => (q.1, p ++ q.2) := by
  induction t generalizing p with
  | leaf a => simp [CodeTree.paths]
  | node l r ihl ihr =>
    rw [CodeTree.paths, CodeTree.paths, ihl, ihr, ihl ([] ++ [false]), ihr ([] ++ [true])]
    simp [Function.comp_def]

theorem mem_paths_node {l r : CodeTree} {a : Symbol} {p : Bits} :
    (a, p) ∈ (CodeTree.node l r).paths [] ↔ ∃ b x, p = b :: x ∧ (a, x) ∈ (cond b r l).paths [] := by
  rw [CodeTree.paths, paths_eq_map l, paths_eq_map r]
  simp [eq_comm, and_comm]

theorem walk_node {l r : CodeTree} {s u : State} {b : Bool} (h : brGet s = .bit b u) :
    walk (.node l r) s = walk (cond b r l) u := by
  cases b <;> simp [walk, h]

/-- A walk on bits that start with the path of a leaf takes that path and ends at the leaf. A lone leaf takes no bit,
and so leaves a full byte as it is. -/
theorem walk_of_path {t : CodeTree} {s : State} {a : Symbol} {p rest : Bits} (hopen : s.br.closed = false)
    (hrem : s.br.rem ≤ 8) (hroot : t.isNode = true ∨ s.br.rem ≤ 7) (hp : (a, p) ∈ t.paths [])
    (h : s.bitsAhead = p ++ rest) : ∃ u, walk t s = .symbol a u ∧ s.Advances u ∧ u.bitsAhead = rest := by
  induction t generalizing s p with
  | leaf b =>
    obtain ⟨rfl, rfl⟩ : a = b ∧ p = [] := by simpa [CodeTree.paths] using hp
    exact ⟨s, rfl, .refl hopen (hroot.resolve_left Bool.false_ne_true), h⟩
  | node l r ihl ihr =>
    obtain ⟨b, x, rfl, hx⟩ := mem_paths_node.mp hp
    obtain ⟨u, hget, hadv, hahead⟩ := brGet_of_bitsAhead hopen hrem h
    have hchild : ∃ v, walk (cond b r l) u = .symbol a v ∧ u.Advances v ∧ v.bitsAhead = rest := by
      have hle := hadv.rem_le
      cases b with
      | true => exact ihr hadv.isOpen (by omega) (.inr hle) hx hahead
      | false => exact ihl hadv.isOpen (by omega) (.inr hle) hx hahead
    obtain ⟨v, hwalk, hadv', hrest⟩ := hchild
    exact ⟨v, (walk_node hget).trans hwalk, hadv.trans hadv', hrest⟩

theorem walk_of_closed {l r : CodeTree} {s : State} (h : s.br.closed = true) : walk (.node l r) s = .ended s := by
  simp [walk, brGet_of_closed h]

/-- A walk on bits that no leaf's path starts takes them all; then IN has ended, or the walk holds. -/
theorem walk_of_noPath {t : CodeTree} {s : State} (hopen : s.br.closed = false) (hrem : s.br.rem ≤ 8)
    (h : ∀ a p, (a, p) ∈ t.paths [] → ¬ p <+: s.bitsAhead) :
    walk t s = if s.eos = true then .ended s.drained else .hold := by
  induction t generalizing s with
  | leaf b => exact absurd List.nil_prefix (h b [] (by simp [CodeTree.paths]))
  | node l r ihl ihr =>
    cases hahead : s.bitsAhead with
    | nil =>
      rw [walk, brGet_of_noBitsAhead hopen hahead, drained_of_noBitsAhead hopen hahead]
      cases s.eos <;> rfl
    | cons b x =>
      obtain ⟨u, hget, hadv, rfl⟩ := brGet_of_bitsAhead hopen hrem hahead
      have hle := hadv.rem_le
      have hnone : ∀ a p, (a, p) ∈ (cond b r l).paths [] → ¬ p <+: u.bitsAhead := fun a p hp hstarts =>
        h a (b :: p) (mem_paths_node.mpr ⟨b, p, rfl, hp⟩) (hahead ▸ List.cons_prefix_cons.mpr ⟨rfl, hstarts⟩)
      rw [walk_node hget, ← hadv.drained_eq, ← hadv.eos_eq]
      cases b with
      | true => exact ihr hadv.isOpen (by omega) hnone
      | false => exact ihl hadv.isOpen (by omega) hnone

/-! ### `DEC_SYM` (R181) -/

section
variable {s : State} {t : CodeTree}

theorem exec_decSym (s : State) : exec .decSym s = execDecSym s := rfl

theorem exec_decSym_noTree (h : s.tree = none) : exec .decSym s = .next (s.failed .noTree 0#32) := by
  rw [exec_decSym, execDecSym]
  exact command_done (t := s.accept.report .noTree 0#32) (by simp [h])

theorem complete_markSentinel (u : State) (a : Symbol) (h : u.sent = false) :
    ((u.withResult (symbolWord a)).markSentinel a).complete =
      { u.complete with result := BitVec.ofNat 32 a.val, sent := decide (a = sentinel) } := by
  by_cases ha : a = sentinel
  · rw [State.markSentinel, if_pos ha, decide_eq_true ha]
    rfl
  · rw [State.markSentinel, if_neg ha, decide_eq_false ha, ← h]
    rfl

theorem exec_decSym_path {a : Symbol} {p rest : Bits} (ht : s.tree = some t) (hnode : t.isNode = true)
    (hopen : s.br.closed = false) (hrem : s.br.rem ≤ 8) (hp : (a, p) ∈ t.paths []) (h : s.bitsAhead = p ++ rest) :
    ∃ u, s.completed.Advances u ∧ u.bitsAhead = rest ∧
      exec .decSym s = .next { u with result := BitVec.ofNat 32 a.val, sent := decide (a = sentinel) } := by
  obtain ⟨u, hwalk, hadv, hrest⟩ := walk_of_path (s := s.accept) hopen hrem (.inl hnode) hp h
  have hsent : u.sent = false := by
    obtain ⟨_, _, _, rfl, _⟩ := hadv
    rfl
  refine ⟨u.complete, hadv.complete, hrest, ?_⟩
  rw [exec_decSym, execDecSym, ← complete_markSentinel u a hsent]
  exact command_done (by simp [ht, hwalk])

theorem exec_decSym_ended {u : State} (ht : s.tree = some t) (h : walk t s.accept = .ended u) :
    exec .decSym s = .next (u.setEnd.report .truncated 0x200#32).complete := by
  rw [exec_decSym, execDecSym]
  exact command_done (by simp [ht, h, endInfo])

theorem exec_decSym_hold (ht : s.tree = some t) (h : walk t s.accept = .hold) : exec .decSym s = .next s.held := by
  rw [exec_decSym, execDecSym]
  exact command_hold (by simp [ht, h])

end

/-- Settles O44: the walk ends at the leaf whose path the bits ahead start with, or takes them all. -/
theorem decSymWalksTheTree : Obligations.DecSymWalksTheTree := by
  unfold Obligations.DecSymWalksTheTree
  refine ⟨rfl, fun s => ⟨exec_decSym_noTree, fun t ht hnode => ⟨fun hclosed => ?_, fun hopen hrem =>
    ⟨fun a p rest hp hahead => ?_, fun hnone => ?_⟩⟩⟩⟩
  · cases t with
    | leaf a => cases hnode
    | node l r => exact exec_decSym_ended ht (walk_of_closed (s := s.accept) hclosed)
  · obtain ⟨u, ⟨taken, q, r, rfl, hinq, hbuf, hopen', hrem'⟩, hrest, hexec⟩ :=
      exec_decSym_path ht hnode hopen hrem hp hahead
    exact ⟨taken, q, r, hexec, hinq, hbuf, hopen', hrem', (bitsAhead_of_open hopen').symm.trans hrest⟩
  · have hwalk := walk_of_noPath (s := s.accept) hopen hrem hnone
    exact ⟨fun heos => exec_decSym_ended ht (hwalk.trans (if_pos heos)),
      fun heos => exec_decSym_hold ht (hwalk.trans (if_neg (by simp [heos])))⟩

/-! ### The decode loop (R183) -/

theorem runOne_of_exec {i : Instr} {s t : State} (h : exec i s = .next t) (hbusy : t.busy = false) :
    runOne i s = some t := by
  simp [runOne, runAll, h, hbusy]

theorem decodeLoop_sentinel {s t : State} (fuel : Nat) (h : runOne .decSym s = some t) (herr : t.err = false)
    (hresult : t.result = 256#32) : decodeLoop (fuel + 1) s = some ([], t) := by
  simp [decodeLoop, h, herr, hresult]

theorem decodeLoop_byte {s t u : State} {b : Byte} {d : List Byte} {fuel : Nat} (h : runOne .decSym s = some t)
    (herr : t.err = false) (hresult : t.result = symbolWord (byteSymbol b)) (hrest : decodeLoop fuel t = some (d, u)) :
    decodeLoop (fuel + 1) s = some (b :: d, u) := by
  have hword : symbolWord (byteSymbol b) = b.setWidth 32 := by
    simp only [symbolWord, byteSymbol, BitVec.ofNat_toNat]
  have hne : b.setWidth 32 ≠ 256#32 := by bv_omega
  have hbyte : (b.setWidth 32).setWidth 8 = b := by bv_omega
  simp [decodeLoop, h, herr, hresult, hrest, hword, hne, State.resultByte, hbyte]

theorem exists_path_of_mem_labels {t : CodeTree} {a : Symbol} (h : a ∈ t.labels) : ∃ p, (a, p) ∈ t.paths [] := by
  obtain ⟨n, hn⟩ := (mem_labels_iff 0).mp h
  rw [show t.depths 0 = _ from depths_eq_map_paths t []] at hn
  obtain ⟨⟨_, p⟩, hp, heq⟩ := List.mem_map.mp hn
  cases heq
  exact ⟨p, hp⟩

theorem entry_codesOf_of_path {t : CodeTree} (hnodup : t.labels.Nodup) {a : Symbol} {p : Bits}
    (h : (a, p) ∈ t.paths []) : entry (codesOf t) a = some p := by
  rw [codesOf, entry_tabulate]
  exact (codeOf_eq_some_iff hnodup).mpr h

/-- R168: the payload's bytes read back as its bits and the zeros that fill up the last byte. -/
theorem bitsOfBytes_payload (c : CodeTable) (d : List Byte) : bitsOfBytes (payload c d) =
    payloadBits c d ++ List.replicate (padCount (payloadBits c d).length) false := by
  obtain ⟨bytes, -, hbits⟩ := bwClose_bwPutAll_bits (payloadBits c d) (s := State.reset) (Nat.zero_le 7)
  simp only [show State.reset.bw = [] from rfl, List.nil_append, List.length_nil, Nat.zero_add] at hbits
  rw [payload_eq_of_bits hbits, hbits]

/-- One turn of the loop on bits that start with a code. -/
theorem runOne_decSym {s : State} {t : CodeTree} (ht : s.tree = some t) (hok : t.Ok) (hopen : s.br.closed = false)
    (hrem : s.br.rem ≤ 7) {a : Symbol} (ha : a ∈ t.labels) {rest : Bits}
    (h : s.bitsAhead = (entry (codesOf t) a).getD [] ++ rest) :
    ∃ u, runOne .decSym s = some u ∧ u.err = false ∧ u.result = symbolWord a ∧ u.tree = some t ∧
      u.br.closed = false ∧ u.br.rem ≤ 7 ∧ u.bitsAhead = rest := by
  obtain ⟨hnode, hnodup⟩ := hok
  obtain ⟨p, hp⟩ := exists_path_of_mem_labels ha
  rw [entry_codesOf_of_path hnodup hp, Option.getD_some] at h
  obtain ⟨u, hadv, hrest, hexec⟩ := exec_decSym_path ht hnode hopen (by omega) hp h
  have hfields : u.busy = false ∧ u.err = false := by
    obtain ⟨_, _, _, rfl, _⟩ := hadv
    exact ⟨rfl, rfl⟩
  exact ⟨_, runOne_of_exec hexec hfields.1, hfields.2, rfl, hadv.tree_eq.trans ht, hadv.isOpen, hadv.rem_le, hrest⟩

/-- R184: the loop decodes the bytes of a file and its sentinel, and takes no bit after the payload's. -/
theorem decodeLoop_payloadBits {t : CodeTree} (hok : t.Ok) (hsentinel : sentinel ∈ t.labels) (d : List Byte)
    (hd : ∀ b ∈ d, byteSymbol b ∈ t.labels) {s : State} (ht : s.tree = some t) (hopen : s.br.closed = false)
    (hrem : s.br.rem ≤ 7) {rest : Bits} (h : s.bitsAhead = payloadBits (codesOf t) d ++ rest) :
    ∃ u, decodeLoop (d.length + 1) s = some (d, u) ∧ u.result = 256#32 ∧ u.br.closed = false ∧ u.br.rem ≤ 7 ∧
      u.bitsAhead = rest := by
  induction d generalizing s with
  | nil =>
    rw [payloadBits_nil] at h
    obtain ⟨u, hrun, herr, hresult, -, hreader⟩ := runOne_decSym ht hok hopen hrem hsentinel h
    exact ⟨u, decodeLoop_sentinel _ hrun herr hresult, hresult, hreader⟩
  | cons b d ih =>
    obtain ⟨hb, hd'⟩ := List.forall_mem_cons.mp hd
    rw [payloadBits_cons, List.append_assoc] at h
    obtain ⟨v, hrun, herr, hresult, ht', hopen', hrem', hahead⟩ := runOne_decSym ht hok hopen hrem hb h
    obtain ⟨u, hloop, hend⟩ := ih hd' ht' hopen' hrem' hahead
    exact ⟨u, decodeLoop_byte hrun herr hresult hloop, hend⟩

/-- R185: what is left of the byte in the reader is the padding, and IN stands at the byte after it. -/
theorem reader_at_padding {u : State} (hopen : u.br.closed = false) (hrem : u.br.rem ≤ 7) {padding : Bits}
    (hpadding : padding.length ≤ 7) {r : List Byte} (h : u.bitsAhead = padding ++ bitsOfBytes r) :
    u.br.rem = padding.length ∧ u.inq = r := by
  rw [bitsAhead_of_open hopen] at h
  have hlength := congrArg List.length h
  simp only [List.length_append, length_pending, length_bitsOfBytes] at hlength
  have heq : u.br.rem = padding.length := by omega
  obtain ⟨-, hbits⟩ := List.append_inj h ((length_pending _).trans heq)
  exact ⟨heq, by rw [← bytesOfBits_bitsOfBytes u.inq, hbits, bytesOfBits_bitsOfBytes]⟩

/-- Settles O45: the bits ahead are the payload's, the padding and the bytes behind; the loop takes the first. -/
theorem decodeLoopInvertsThePayload : Obligations.DecodeLoopInvertsThePayload := by
  unfold Obligations.DecodeLoopInvertsThePayload
  intro s len t d r hrecon hd hsentinel ht hbr hinq
  obtain ⟨hok, -⟩ := recon_ok hrecon
  have hopen : s.br.closed = false := by rw [hbr]
  have hahead : s.bitsAhead = payloadBits (codesOf t) d ++
      (List.replicate (padCount (payloadBits (codesOf t) d).length) false ++ bitsOfBytes r) := by
    rw [bitsAhead_of_open hopen, hbr, hinq, bitsOfBytes_append, bitsOfBytes_payload, List.append_assoc]
    rfl
  obtain ⟨u, hloop, hresult, hopen', hrem, hrest⟩ :=
    decodeLoop_payloadBits hok hsentinel d hd ht hopen (by simp [hbr]) hahead
  have hpad : padCount (payloadBits (codesOf t) d).length ≤ 7 := by unfold padCount; omega
  obtain ⟨hpadding, hbehind⟩ := reader_at_padding hopen' hrem (by simpa using hpad) hrest
  exact ⟨u, hloop, hresult, hbehind, by simpa using hpadding, _, exec_brClose u, hbehind, rfl⟩

end Sys2Proof.Machine

/-! ## The framer's phases, and the steps of the machine from a safe state -/

namespace Sys2Proof.Machine

/-! ### The phase check (R204, R221) -/

section
variable {ps : List Phase} {s : State}

/-- In a phase its rule lists, a framer command is its rule. -/
theorem command_inPhase_in (h : s.fph ∈ ps) (rule : State → Ending) :
    command (fun s => inPhase ps s (rule s)) s = command rule s := by
  have hrule : inPhase ps s.accept (rule s.accept) = rule s.accept := inPhase_in (s := s.accept) h _
  rw [command, hrule, command]

/-- In a phase its rule does not list, it raises `SEQUENCE`. -/
theorem command_inPhase_out (h : s.fph ∉ ps) (rule : State → Ending) :
    command (fun s => inPhase ps s (rule s)) s = .next (s.failed .sequence s.fph.word) :=
  command_done (t := s.accept.report .sequence s.fph.word) (inPhase_out (s := s.accept) h _)

/-- A framer command whose rule lists one phase, in it. -/
theorem command_inPhase_singleton {p : Phase} (h : s.fph = p) (rule : State → Ending) :
    command (fun s => inPhase [p] s (rule s)) s = command rule s :=
  command_inPhase_in (List.mem_singleton.mpr h) rule

theorem command_inPhase_done {p : Phase} {rule : State → Ending} {t : State} (h : s.fph = p)
    (hrule : rule s.accept = .done t) : command (fun s => inPhase [p] s (rule s)) s = .next t.complete :=
  (command_inPhase_singleton h rule).trans (command_done hrule)

theorem command_inPhase_hold {p : Phase} {rule : State → Ending} (h : s.fph = p) (hrule : rule s.accept = .hold) :
    command (fun s => inPhase [p] s (rule s)) s = .next s.held :=
  (command_inPhase_singleton h rule).trans (command_hold hrule)

/-- R253: an error that the rule raises as fatal before it has changed anything. -/
theorem command_inPhase_fatal {p : Phase} {rule : State → Ending} {e : ErrCode} {info : Word} (h : s.fph = p)
    (hrule : rule s.accept = raiseFatal e info s.accept) :
    command (fun s => inPhase [p] s (rule s)) s = .next { s.failed e info with fph := .fatal } :=
  command_inPhase_done (t := (s.accept.toPhase .fatal).report e info) h hrule

theorem exec_of_phase_notMem {i : Instr} (hps : phasesOf i = some ps) (h : s.fph ∉ ps) :
    exec i s = .next (s.failed .sequence s.fph.word) := by
  unfold exec
  cases i with
  | awBegin | awPbyte _ | awPend | awMend | awDir | awFile | awCount _ | awFilehdr | awSym _ | awFend | awEnd
  | arMagic | arMbyte | arSkipm | arEntry | arPbyte | arFilehdr | arSym | arEnd =>
    cases hps
    exact command_inPhase_out h _
  | nop | srst | brOpen | brGet | brClose | bwPut _ | bwClose | freqClr | freqInc _ | freqGet _ | treeBuild
  | lenFromTree | treeFromLen | lenGet _ | lenSet _ _ | lenClr | lenEmit | lenLoad | codeGen | codeLen _
  | codeBit _ _ | encSym _ | encEnd | decSym | frAbort => cases hps

/-- A command whose rule lists one phase, outside it. -/
theorem exec_of_phase_ne {i : Instr} {p : Phase} (hps : phasesOf i = some [p]) (h : s.fph ≠ p) :
    exec i s = .next (s.failed .sequence s.fph.word) :=
  exec_of_phase_notMem hps (by simpa using h)

end

/-- Settles O12: every framer command but `FR_ABORT` starts with the phase check. -/
theorem wrongPhaseRaisesSequence : Obligations.WrongPhaseRaisesSequence := by
  unfold Obligations.WrongPhaseRaisesSequence
  exact fun i ps s => exec_of_phase_notMem

/-! ### Leaving `FATAL` (R253) -/

/-- In the tables only `FR_ABORT` and `SRST` have a move from `FATAL`. -/
theorem eq_frAbort_or_srst_of_phaseMoves_fatal {i : Instr} {p : Phase} (h : p ∈ phaseMoves i .fatal) :
    i = .frAbort ∨ i = .srst := by
  cases i with
  | frAbort => exact .inl rfl
  | srst => exact .inr rfl
  | _ => cases h

theorem runWord_leaves_fatal {w : Word} {s t : State} (hfatal : s.fph = .fatal) (h : runWord w s = .next t)
    (hleft : t.fph ≠ .fatal) : decode w = .ok .frAbort ∨ decode w = .ok .srst := by
  cases hdecode : decode w with
  | ok i =>
    rw [runWord_ok hdecode] at h
    rcases exec_hasEffect i s t h with rfl | heffect
    · exact absurd hfatal hleft
    · have hmove := heffect.phase.resolve_left (hfatal ▸ hleft)
      rw [hfatal] at hmove
      exact (eq_frAbort_or_srst_of_phaseMoves_fatal hmove).imp (congrArg Except.ok) (congrArg Except.ok)
  | error e =>
    obtain ⟨c, info, hreject⟩ := rejectWord_eq e s
    rw [runWord_error hdecode, hreject] at h
    cases h
    exact absurd hfatal hleft

@[simp] theorem State.retire_fph (s : State) : s.retire.fph = s.fph := by
  unfold State.retire
  split <;> rfl

theorem coreStep_leaves_fatal {s t : State} (hfatal : s.fph = .fatal) (h : coreStep s = .next t)
    (hleft : t.fph ≠ .fatal) : ∃ w rest, s.cmdq = w :: rest ∧ (decode w = .ok .frAbort ∨ decode w = .ok .srst) := by
  cases hcmdq : s.cmdq with
  | nil =>
    rw [coreStep_idle hcmdq] at h
    cases h
    exact absurd hfatal hleft
  | cons w rest =>
    cases hrun : runWord w s with
    | next u =>
      rw [coreStep_next hcmdq hrun] at h
      cases h
      exact ⟨w, rest, rfl, runWord_leaves_fatal hfatal hrun (by simpa using hleft)⟩
    | fault r =>
      rw [coreStep_fault hcmdq hrun] at h
      cases h
    | refused r => simp [coreStep, hcmdq, hrun] at h

@[simp] theorem State.writeRegister_fph (s : State) (off : Nat) (v : Word) : (s.writeRegister off v).fph = s.fph := by
  unfold State.writeRegister
  split <;> rfl

/-- Of the host's moves only hardware reset touches the phase. -/
theorem hostStep_fph {m : HostMove} {s t : State} (hm : m ≠ .hardReset) (h : hostStep m s = .next t) :
    t.fph = s.fph := by
  cases m with
  | read width off =>
    simp only [hostStep, hostRead] at h
    split at h <;> cases h
    rfl
  | write width off v =>
    simp only [hostStep, hostWrite] at h
    split at h <;> cases h
    exact s.writeRegister_fph off v
  | push b =>
    simp only [hostStep, hostPush] at h
    split at h <;> cases h
    rfl
  | setEos =>
    simp only [hostStep, hostSetEos] at h
    split at h <;> cases h
    rfl
  | drain =>
    simp only [hostStep, hostDrain] at h
    split at h <;> cases h <;> rfl
  | hardReset => exact absurd rfl hm

/-- Settles O14: a core step leaves `FATAL` only by the tables' moves, and a host step only by hardware reset. -/
theorem fatalIsLeftOnlyByAbortOrReset : Obligations.FatalIsLeftOnlyByAbortOrReset := by
  unfold Obligations.FatalIsLeftOnlyByAbortOrReset
  intro s t hfatal hstep hleft
  unfold step at hstep
  split at hstep
  case h_1 hnone => exact .inr ⟨.inl hnone, coreStep_leaves_fatal hfatal hstep hleft⟩
  case h_2 rest hcore =>
    exact .inr ⟨.inr ⟨rest, hcore⟩, coreStep_leaves_fatal (s := { s with schedule := rest }) hfatal hstep hleft⟩
  case h_3 m rest hhost =>
    by_cases hm : m = .hardReset
    · exact .inl ⟨rest, hm ▸ hhost⟩
    · exact absurd ((hostStep_fph hm hstep).trans hfatal) hleft

/-! ### The header of a file (R200) -/

section
variable {f : FreqTable} {t₀ : CodeTree}

theorem depth_le_of_tooDeep_eq_none (hnodup : t₀.labels.Nodup) (h : tooDeep t₀ = none) :
    ∀ p ∈ t₀.depths 0, p.2 ≤ 255 := by
  intro p hp
  have htest := List.find?_eq_none.mp h p.1 (mem_allSymbols p.1)
  rw [decide_eq_true_iff, tooDeep_test_iff hnodup] at htest
  exact Nat.not_lt.mp fun hdeep => htest ⟨p.2, hp, hdeep⟩

/-- R146: the lengths of a full tree that is not too deep are rebuilt into a tree. -/
theorem exists_recon_lengthsOf (hok : t₀.Ok) (h : tooDeep t₀ = none) : ∃ t, recon (lengthsOf t₀) = some t :=
  (exists_recon_iff _).mpr <| kraftSum_of_depths hok
    (fun p hp => toNat_entry_lengthsOf hok.2 hp (depth_le_of_tooDeep_eq_none hok.2 h p hp))
    fun _ => entry_lengthsOf_of_notMem

theorem fileHeader_overflow {x : Symbol} (hbuild : buildTree f = some t₀) (hdeep : tooDeep t₀ = some x) :
    fileHeader f = .overflow x := by
  simp [fileHeader, hbuild, hdeep]

theorem fileHeader_tables {t : CodeTree} (hbuild : buildTree f = some t₀) (hdeep : tooDeep t₀ = none)
    (hrecon : recon (lengthsOf t₀) = some t) : fileHeader f = .tables (lengthsOf t₀) t (codesOf t) := by
  simp [fileHeader, hbuild, hdeep, hrecon]

/-- R133, R146: a header is never broken. -/
theorem fileHeader_cases (f : FreqTable) : ∃ t₀, buildTree f = some t₀ ∧ t₀.Ok ∧
    ((∃ x, tooDeep t₀ = some x ∧ fileHeader f = .overflow x) ∨
      ∃ t, tooDeep t₀ = none ∧ recon (lengthsOf t₀) = some t ∧
        fileHeader f = .tables (lengthsOf t₀) t (codesOf t)) := by
  obtain ⟨t₀, hbuild, hok⟩ := buildTree_ok f
  refine ⟨t₀, hbuild, hok, ?_⟩
  cases hdeep : tooDeep t₀ with
  | some x => exact .inl ⟨x, rfl, fileHeader_overflow hbuild hdeep⟩
  | none =>
    obtain ⟨t, hrecon⟩ := exists_recon_lengthsOf hok hdeep
    exact .inr ⟨t, rfl, hrecon, fileHeader_tables hbuild hdeep hrecon⟩

theorem fileHeader_ne_broken (f : FreqTable) : fileHeader f ≠ .broken := by
  obtain ⟨_, _, _, ⟨x, _, h⟩ | ⟨t, _, _, h⟩⟩ := fileHeader_cases f <;> simp [h]

end

/-! ### Every command answers (R252) -/

/-- A rule that ends or holds. -/
def Ending.Answers : Ending → Prop
  | .done _ => True
  | .hold => True
  | .stuck _ => False

/-- A command that gives a next state. -/
def OutcomeAnswers (o : Host.Outcome State Fault Refusal) : Prop := ∃ t, o = .next t

theorem command_answers {rule : State → Ending} {s : State} (h : (rule s.accept).Answers) :
    OutcomeAnswers (command rule s) := by
  rcases command_cases rule s with ⟨t, _, hc⟩ | ⟨_, hc⟩ | ⟨r, hr, _⟩
  · exact ⟨_, hc⟩
  · exact ⟨_, hc⟩
  · rw [hr] at h
    exact h.elim

theorem withSymbol_answers {a : BitVec 9} {s : State} {rule : Symbol → Ending} (h : ∀ x, (rule x).Answers) :
    (withSymbol a s rule).Answers := by
  by_cases ha : a.toNat < 257
  · rw [withSymbol_in ha]
    exact h _
  · rw [withSymbol_out ha]
    trivial

theorem inPhase_answers {ps : List Phase} {s : State} {rule : Ending} (h : s.fph ∈ ps → rule.Answers) :
    (inPhase ps s rule).Answers := by
  by_cases hp : s.fph ∈ ps
  · rw [inPhase_in hp]
    exact h hp
  · rw [inPhase_out hp]
    trivial

/-- R200: the reconstruction never fails. -/
theorem execAwFilehdr_answers (s : State) : OutcomeAnswers (execAwFilehdr s) := by
  refine command_answers (inPhase_answers fun _ => ?_)
  split
  · trivial
  · split
    · trivial
    case h_2 hbroken => exact absurd hbroken (fileHeader_ne_broken _)
    · trivial

/-- R229: in `R_PAYLOAD` there is a tree. -/
theorem execArSym_answers {s : State} (htree : s.fph = .rPayload → s.tree.isSome = true) :
    OutcomeAnswers (execArSym s) := by
  refine command_answers (inPhase_answers fun hp => ?_)
  split
  case h_1 hnone =>
    have hsome := htree (List.mem_singleton.mp hp)
    rw [show s.tree = none from hnone] at hsome
    cases hsome
  · split <;> trivial

theorem execArMagic_answers (s : State) : OutcomeAnswers (execArMagic s) := by
  refine command_answers (inPhase_answers fun _ => ?_)
  split
  · trivial
  · trivial
  · split
    · trivial
    · trivial
    · unfold checkMagic
      split <;> trivial

/-- Of all rules only those of `AW_FILEHDR` and `AR_SYM` have a case that answers nothing. -/
theorem exec_answers {s : State} (htree : s.fph = .rPayload → s.tree.isSome = true) (i : Instr) :
    OutcomeAnswers (exec i s) := by
  unfold exec
  cases i with
  | nop | srst | brOpen | brClose | bwPut _ | bwClose | freqClr | treeBuild | lenClr | lenEmit | frAbort =>
    exact command_answers trivial
  | freqGet _ | lenGet _ | lenSet _ _ => exact command_answers (withSymbol_answers fun _ => trivial)
  | awBegin | awPend | awMend | awDir | awFile | awEnd | arEnd =>
    exact command_answers (inPhase_answers fun _ => trivial)
  | brGet | treeFromLen | lenLoad | encEnd =>
    refine command_answers ?_
    split <;> trivial
  | lenFromTree | codeGen | decSym =>
    refine command_answers ?_
    split
    · trivial
    · split <;> trivial
  | freqInc _ | codeLen _ | encSym _ =>
    refine command_answers (withSymbol_answers fun _ => ?_)
    split <;> trivial
  | codeBit _ _ =>
    refine command_answers (withSymbol_answers fun _ => ?_)
    split
    · trivial
    · split <;> trivial
  | awPbyte _ | awFend | arSkipm =>
    refine command_answers (inPhase_answers fun _ => ?_)
    split <;> trivial
  | awCount _ | awSym _ =>
    refine command_answers (inPhase_answers fun _ => ?_)
    dsimp only [withByte]
    split <;> trivial
  | arMbyte | arEntry =>
    refine command_answers (inPhase_answers fun _ => ?_)
    split
    · trivial
    · trivial
    · split
      · trivial
      · split <;> trivial
  | arPbyte | arFilehdr =>
    refine command_answers (inPhase_answers fun _ => ?_)
    split
    · trivial
    · trivial
    · split <;> trivial
  | arMagic => exact execArMagic_answers s
  | awFilehdr => exact execAwFilehdr_answers s
  | arSym => exact execArSym_answers htree

/-- Settles O19: the two cases that would answer nothing do not arise, and a command holds only while IN has not
ended. -/
theorem everyCommandAnswers : Obligations.EveryCommandAnswers := by
  unfold Obligations.EveryCommandAnswers
  intro i s hinv
  obtain ⟨t, ht⟩ := exec_answers hinv.payloadTree i
  refine ⟨t, ht, fun heos => ?_⟩
  by_contra hbusy
  obtain ⟨hopen, -⟩ := exec_holdsForInput i s t ht (by simpa using hbusy)
  rw [hopen] at heos
  cases heos

/-! ### Every step from a safe state (R61, R252) -/

theorem coreStep_answers {s : State} (hinv : s.Inv) : OutcomeAnswers (coreStep s) := by
  cases hcmdq : s.cmdq with
  | nil => exact ⟨s, coreStep_idle hcmdq⟩
  | cons w rest =>
    have hrun : OutcomeAnswers (runWord w s) := by
      cases hdecode : decode w with
      | ok i =>
        rw [runWord_ok hdecode]
        exact exec_answers hinv.payloadTree i
      | error e =>
        obtain ⟨c, info, hreject⟩ := rejectWord_eq e s
        exact ⟨_, (runWord_error hdecode s).trans hreject⟩
    obtain ⟨t, ht⟩ := hrun
    exact ⟨_, coreStep_next hcmdq ht⟩

/-- A host move inside the interface gives a next state; one outside it is refused. -/
theorem hostStep_cases (m : HostMove) (s : State) :
    OutcomeAnswers (hostStep m s) ∨ moveAllowed s m = false ∧ ∃ r, hostStep m s = .refused r := by
  cases m with
  | read width off =>
    cases h : accessDefined width off with
    | true => exact .inl ⟨_, if_pos h⟩
    | false => exact .inr ⟨h, _, if_neg (by simp [h])⟩
  | write width off v =>
    cases h : accessDefined width off with
    | true => exact .inl ⟨_, if_pos h⟩
    | false => exact .inr ⟨h, _, if_neg (by simp [h])⟩
  | push b =>
    cases h : s.eos with
    | true => exact .inr ⟨by simp [moveAllowed, h], _, if_pos h⟩
    | false => exact .inl ⟨_, if_neg (by simp [h])⟩
  | setEos =>
    cases h : s.eos with
    | true => exact .inr ⟨by simp [moveAllowed, h], _, if_pos h⟩
    | false => exact .inl ⟨_, if_neg (by simp [h])⟩
  | drain =>
    left
    simp only [hostStep, hostDrain]
    split <;> exact ⟨_, rfl⟩
  | hardReset => exact .inl ⟨_, rfl⟩

theorem step_of_hostTurn {s : State} {m : HostMove} {rest : List Move} (h : s.schedule = .host m :: rest) :
    step s = hostStep m { s with schedule := rest } := by
  rw [step, h]

theorem nextMoveAllowed_of_hostTurn {s : State} {m : HostMove} {rest : List Move} (h : s.schedule = .host m :: rest) :
    nextMoveAllowed s = moveAllowed s m := by
  rw [nextMoveAllowed, h]

/-- Whether a move is inside the interface does not depend on the moves after it. -/
theorem moveAllowed_withSchedule (s : State) (rest : List Move) (m : HostMove) :
    moveAllowed { s with schedule := rest } m = moveAllowed s m := by
  cases m <;> rfl

/-- Settles O18: the core's step answers, and a host's move answers or is refused as outside the interface. -/
theorem safeStatesStepOn : Obligations.SafeStatesStepOn := by
  unfold Obligations.SafeStatesStepOn
  intro s hinv
  have hrest : ∀ moves, State.Inv { s with schedule := moves } := fun _ => { hinv with }
  have hcases : OutcomeAnswers (step s) ∨ nextMoveAllowed s = false ∧ ∃ r, step s = .refused r := by
    match hschedule : s.schedule with
    | [] =>
      rw [step_of_coreTurn (.inl ⟨hschedule, rfl⟩)]
      exact .inl (coreStep_answers (hrest []))
    | .core :: rest =>
      rw [step_of_coreTurn (.inr hschedule)]
      exact .inl (coreStep_answers (hrest rest))
    | .host m :: rest =>
      rw [step_of_hostTurn hschedule, nextMoveAllowed_of_hostTurn hschedule, ← moveAllowed_withSchedule s rest m]
      exact hostStep_cases m { s with schedule := rest }
  rcases hcases with ⟨t, ht⟩ | ⟨hoff, r, hr⟩
  · exact ⟨by simp [ht], fun _ => ⟨t, ht⟩⟩
  · exact ⟨by simp [hr], fun hon => absurd hon (by simp [hoff])⟩

end Sys2Proof.Machine

/-! ## Reading a counter -/

namespace Sys2Proof.Machine

theorem exec_freqGet (a : BitVec 9) (s : State) : exec (.freqGet a) s =
    command (fun s => withSymbol a s fun x => .done (s.withResult (BitVec.ofNat 32 (entry s.freq x)))) s := rfl

/-- Settles O31: one plain rule on the counter, but for the symbol range. -/
theorem counterReads : Obligations.CounterReads := by
  unfold Obligations.CounterReads
  refine ⟨packWord_zero 0x22#8, fun s a => ⟨fun h => ?_, fun x hx => ?_⟩⟩
  · rw [exec_freqGet, command_withSymbol_outOfRange h]
  · rw [exec_freqGet, command_withSymbol_inRange hx]; rfl

end Sys2Proof.Machine

/-! ## The archive writer -/

namespace Sys2Proof.Machine

/-! ### The fixed fields (R193, R196 to R198, R210) -/

/-- R71, R77: the word of a command of class B, whose byte stands in the low bits of `A`. -/
theorem packWord_byte (op b : Byte) :
    packWord op (b.setWidth 9) 0x00#8 = b.setWidth 32 <<< 8 ||| op.setWidth 32 := by
  rw [packWord_zero, BitVec.setWidth_setWidth (by decide)]

section
variable {s : State}

theorem exec_awBegin (h : s.fph = .idle) : exec .awBegin s =
    .next { s.completed with out := s.out ++ [s.cfg.magic0, s.cfg.magic1], fph := .wManifest } := by
  unfold exec
  refine (command_inPhase_singleton h _).trans ?_
  rw [← List.singleton_append, ← List.append_assoc]
  rfl

theorem exec_awMend (h : s.fph = .wManifest) :
    exec .awMend s = .next { s.completed with out := s.out ++ [s.cfg.mend], fph := .wBlocks } := by
  unfold exec
  exact command_inPhase_singleton h _

theorem exec_awDir (h : s.fph = .wBlocks) :
    exec .awDir s = .next { s.completed with out := s.out ++ [s.cfg.tagDir], fph := .wDpath } := by
  unfold exec
  exact command_inPhase_singleton h _

theorem exec_awFile (h : s.fph = .wBlocks) : exec .awFile s =
    .next { s.completed with out := s.out ++ [s.cfg.tagFile], freq := freqZero, fph := .wFpath } := by
  unfold exec
  exact command_inPhase_singleton h _

theorem exec_awEnd (h : s.fph = .wBlocks) : exec .awEnd s = .next { s.completed with fph := .idle } := by
  unfold exec
  exact command_inPhase_singleton h _

end

/-- Settles O46: each command is a plain rule in its one phase. -/
theorem writerFixedFields : Obligations.WriterFixedFields := by
  unfold Obligations.WriterFixedFields
  exact ⟨rfl, rfl, rfl, rfl, rfl, fun s => ⟨exec_awBegin, exec_awMend,
    fun h => ⟨exec_awDir h, ⟨freqZero, exec_awFile h, entry_freqZero⟩, exec_awEnd h⟩,
    exec_of_phase_ne rfl, exec_of_phase_ne rfl,
    fun h => ⟨exec_of_phase_ne rfl h, exec_of_phase_ne rfl h, exec_of_phase_ne rfl h⟩⟩⟩

/-! ### Paths (R194, R195, R203) -/

/-- The phases in which the writer takes a path (R194). -/
def writerPathPhases : List Phase := [.wManifest, .wMpath, .wDpath, .wFpath]

section
variable {s : State} {b : Byte}

theorem exec_awPbyte_refused (h : s.fph ∈ writerPathPhases) (hb : b = 0x00#8 ∨ b = s.cfg.mend) :
    exec (.awPbyte b) s = .next (s.failed .badPathByte (b.setWidth 32)) := by
  unfold exec
  exact (command_inPhase_in h _).trans <| command_done (t := s.accept.report .badPathByte (byteWord b)) (if_pos hb)

theorem exec_awPbyte_ok (h : s.fph ∈ writerPathPhases) (hnul : b ≠ 0x00#8) (hmend : b ≠ s.cfg.mend) :
    exec (.awPbyte b) s = .next { s.completed with
      out := s.out ++ [b], fph := if s.fph = .wManifest then .wMpath else s.fph } := by
  unfold exec
  exact (command_inPhase_in h _).trans <| command_done
    (t := (s.accept.outWrite b).toPhase (if s.fph = .wManifest then .wMpath else s.fph))
    (if_neg (not_or.mpr ⟨hnul, hmend⟩))

theorem exec_awPend (h : s.fph ∈ writerPathPhases) :
    exec .awPend s = .next { s.completed with out := s.out ++ [0x00#8], fph := afterPath s.fph } := by
  unfold exec
  exact command_inPhase_in h _

end

/-- Settles O47: in a path's phases a byte is written or refused, and the end moves by `afterPath`. -/
theorem writerPaths : Obligations.WriterPaths := by
  unfold Obligations.WriterPaths
  have hend : ∀ {s : State} {p : Phase}, p ∈ writerPathPhases → s.fph = p →
      exec .awPend s = .next { s.completed with out := s.out ++ [0x00#8], fph := afterPath p } :=
    fun hp h => h ▸ exec_awPend (h ▸ hp)
  exact ⟨packWord_byte 0x71#8, rfl, fun s => ⟨fun h b => ⟨exec_awPbyte_refused h, exec_awPbyte_ok h⟩,
    fun h => h.elim (hend (by decide)) (hend (by decide)), hend (by decide), hend (by decide),
    fun h => ⟨exec_of_phase_notMem rfl h, fun b => exec_of_phase_notMem rfl h⟩⟩⟩

/-! ### Counting (R199) -/

section
variable {s : State} {b : Byte}

theorem symbolWord_byteSymbol (b : Byte) : symbolWord (byteSymbol b) = b.setWidth 32 := by
  simp only [symbolWord, byteSymbol, BitVec.ofNat_toNat]

theorem exec_awCount_full (h : s.fph = .wFcount) (hfull : entry s.freq (byteSymbol b) = s.cfg.cntMax) :
    exec (.awCount b) s = .next { s.failed .counterOverflow (b.setWidth 32) with fph := .fatal } := by
  unfold exec
  rw [← symbolWord_byteSymbol]
  exact command_inPhase_fatal h (if_pos hfull)

theorem exec_awCount_room (h : s.fph = .wFcount) (hroom : entry s.freq (byteSymbol b) ≠ s.cfg.cntMax) :
    exec (.awCount b) s = .next { s.completed with freq := countSymbol s.freq (byteSymbol b) } := by
  unfold exec
  exact command_inPhase_done (t := { s.accept with freq := countSymbol s.freq (byteSymbol b) }) h (if_neg hroom)

end

/-- Settles O48: the two outcomes of counting, and `countSymbol` entry by entry. -/
theorem writerCounts : Obligations.WriterCounts := by
  unfold Obligations.WriterCounts
  refine ⟨packWord_byte 0x76#8, fun s b x hx => ?_⟩
  obtain rfl : x = byteSymbol b := Fin.ext hx
  refine ⟨exec_of_phase_ne rfl, exec_awCount_full, fun h hroom =>
    ⟨countSymbol s.freq (byteSymbol b), exec_awCount_room h hroom, ?_, fun y hy => ?_⟩⟩
  · rw [entry_countSymbol, if_pos rfl]
  · rw [entry_countSymbol, if_neg hy]

/-! ### The header of a file (R200) -/

section
variable {s : State}

theorem exec_awFilehdr_full (h : s.fph = .wFcount) (hfull : entry s.freq sentinel = s.cfg.cntMax) :
    exec .awFilehdr s = .next { s.failed .counterOverflow 256#32 with fph := .fatal } := by
  unfold exec
  exact command_inPhase_fatal h (if_pos hfull)

theorem exec_awFilehdr_overflow (h : s.fph = .wFcount) (hroom : entry s.freq sentinel ≠ s.cfg.cntMax) {x : Symbol}
    (hheader : fileHeader (countSymbol s.freq sentinel) = .overflow x) :
    exec .awFilehdr s = .next { s.failed .lengthOverflow (symbolWord x) with fph := .fatal } := by
  unfold exec
  exact command_inPhase_fatal h (by simp [hroom, hheader])

theorem exec_awFilehdr_tables (h : s.fph = .wFcount) (hroom : entry s.freq sentinel ≠ s.cfg.cntMax) {len : LenTable}
    {t : CodeTree} {c : CodeTable} (hheader : fileHeader (countSymbol s.freq sentinel) = .tables len t c) :
    exec .awFilehdr s = .next { s.completed with
      freq := countSymbol s.freq sentinel, len := len, tree := some t, code := some c, bw := [],
      out := s.out ++ len.toList, fph := .wPayload } := by
  unfold exec
  exact command_inPhase_done (t := { (s.accept.outWriteAll len.toList).toPhase .wPayload with
    freq := countSymbol s.freq sentinel, len := len, tree := some t, code := some c, bw := [] }) h
    (by simp [hroom, hheader])

end

/-- Settles O49: the header is the greedy tree's lengths and the codes of the tree rebuilt from them, which R146 gives,
or the overflow of the greedy tree. -/
theorem fileHeaderBuildsTheCanonicalCode : Obligations.FileHeaderBuildsTheCanonicalCode := by
  unfold Obligations.FileHeaderBuildsTheCanonicalCode
  refine ⟨rfl, fun s => ⟨exec_of_phase_ne rfl, exec_awFilehdr_full, fun h hroom => ?_⟩⟩
  obtain ⟨t₀, hbuild, hok⟩ := buildTree_ok (countSymbol s.freq sentinel)
  refine ⟨countSymbol s.freq sentinel, t₀, ?_, fun y hy => ?_, hbuild, fun hshallow => ?_,
    fun p hp hdeep hmin => ?_⟩
  · rw [entry_countSymbol, if_pos rfl]
  · rw [entry_countSymbol, if_neg hy]
  · have hdeep := tooDeep_eq_none hok.2 hshallow
    obtain ⟨t, hrecon⟩ := exists_recon_lengthsOf hok hdeep
    obtain ⟨⟨-, hnodup⟩, -⟩ := recon_ok hrecon
    refine ⟨lengthsOf t₀, t, codesOf t, fun p hp => toNat_entry_lengthsOf hok.2 hp (hshallow p hp),
      fun a => entry_lengthsOf_of_notMem, hrecon, fun p hp => entry_codesOf_of_path hnodup hp, fun a ha => ?_,
      exec_awFilehdr_tables h hroom (fileHeader_tables hbuild hdeep hrecon)⟩
    rw [codesOf, entry_tabulate, codeOf_eq_none ha]
  · exact exec_awFilehdr_overflow h hroom (fileHeader_overflow hbuild (tooDeep_eq_some hok.2 hp hdeep hmin))

/-! ### The payload (R201, R202) -/

section
variable {s : State} {b : Byte} {bits : Bits}

theorem exec_awSym_noCode (h : s.fph = .wPayload) (hnone : s.codeFor (byteSymbol b) = none) :
    exec (.awSym b) s = .next { s.failed .noCode (b.setWidth 32) with fph := .fatal } := by
  unfold exec
  rw [← symbolWord_byteSymbol]
  exact command_inPhase_fatal h (by simp [withByte, hnone])

theorem exec_awSym_ok (h : s.fph = .wPayload) (hbits : s.codeFor (byteSymbol b) = some bits) :
    exec (.awSym b) s = .next (s.completed.bwPutAll bits) := by
  unfold exec
  rw [← accept_complete, ← complete_bwPutAll]
  exact command_inPhase_done h (by simp only [withByte, codeFor_accept, hbits, State.enc])

theorem exec_awFend_noCode (h : s.fph = .wPayload) (hnone : s.codeFor sentinel = none) :
    exec .awFend s = .next { s.failed .noCode 256#32 with fph := .fatal } := by
  unfold exec
  exact command_inPhase_fatal (info := symbolWord sentinel) h (by simp [hnone])

theorem exec_awFend_ok (h : s.fph = .wPayload) (hbits : s.codeFor sentinel = some bits) :
    exec .awFend s = .next ((s.completed.bwPutAll bits).bwClose.toPhase .wBlocks) := by
  unfold exec
  rw [← accept_complete, ← complete_bwPutAll, ← complete_bwClose]
  exact command_inPhase_done (t := (s.accept.bwPutAll bits).bwClose.toPhase .wBlocks) h
    (by simp only [codeFor_accept, hbits, State.enc])

end

/-- Settles O50: each command puts the bits of a code into the BitWriter, and `AW_FEND` closes it after them. -/
theorem writerPayload : Obligations.WriterPayload := by
  unfold Obligations.WriterPayload
  refine ⟨packWord_byte 0x78#8, rfl, fun s => ⟨fun h => ⟨exec_of_phase_ne rfl h, fun b => exec_of_phase_ne rfl h⟩,
    fun h c hc => ?_⟩⟩
  have hcode := codeFor_of_table hc
  refine ⟨fun b habsent => exec_awSym_noCode h ((hcode _).trans habsent), fun habsent =>
    exec_awFend_noCode h ((hcode _).trans habsent), fun hbw => ⟨fun b bits hbits => ?_, fun bits hbits => ?_⟩⟩
  · obtain ⟨bytes, bw, hput, hle, hread⟩ := bwPutAll_bits bits (s := s.completed) hbw
    refine ⟨bytes, bw, ?_, hle, hread⟩
    rw [exec_awSym_ok h ((hcode _).trans hbits), hput]
    rfl
  · obtain ⟨bytes, hclose, hread⟩ := bwClose_bwPutAll_bits bits (s := s.completed) hbw
    refine ⟨bytes, ?_, hread⟩
    rw [exec_awFend_ok h ((hcode _).trans hbits), hclose]
    rfl

end Sys2Proof.Machine

/-! ## Source trees and the host's write run -/

namespace Sys2Proof.Machine

/-! ### The DFS order (R191) -/

/-- The number of entries the nodes on the stack give. -/
def stackSize (stack : List (List Byte × FsNode)) : Nat := FsNode.sizeAll (stack.map Prod.snd)

theorem sizeAll_append (cs ds : List FsNode) : FsNode.sizeAll (cs ++ ds) = FsNode.sizeAll cs + FsNode.sizeAll ds := by
  induction cs with
  | nil => simp [FsNode.sizeAll]
  | cons c cs ih => simp [FsNode.sizeAll, ih, Nat.add_assoc]

theorem sizeAll_reverse (cs : List FsNode) : FsNode.sizeAll cs.reverse = FsNode.sizeAll cs := by
  induction cs with
  | nil => rfl
  | cons c cs ih => simp [sizeAll_append, FsNode.sizeAll, ih, Nat.add_comm]

/-- One turn of the loop lists one entry: a node is popped, and its children are pushed. -/
theorem stackSize_turn (p : List Byte) (n : FsNode) (stack : List (List Byte × FsNode)) :
    stackSize ((p, n) :: stack) = stackSize ((childrenAt p n).reverse ++ stack) + 1 := by
  cases n with
  | file name d => simp [stackSize, childrenAt, FsNode.sizeAll, FsNode.size, Nat.add_comm]
  | dir name cs =>
    have hchildren : (childrenAt p (.dir name cs)).map Prod.snd = cs := by
      simp [childrenAt, Function.comp_def]
    simp only [stackSize, List.map_append, List.map_reverse, hchildren, sizeAll_append, sizeAll_reverse,
      List.map_cons, FsNode.sizeAll, FsNode.size]
    omega

/-- What the words of R191 make of every node on the stack, the top first. -/
def stackOrder (stack : List (List Byte × FsNode)) : List ArchiveEntry :=
  stack.flatMap fun n => reversePreorder n.1 n.2

/-- R191: children pushed in enumeration order come off the stack last first. -/
theorem stackOrder_reverse_children (p : List Byte) (cs : List FsNode) :
    stackOrder (cs.map fun c => (childPath p c, c)).reverse = reversePreorderAll p cs := by
  induction cs with
  | nil => rfl
  | cons c cs ih =>
    rw [reversePreorderAll, ← ih]
    simp [stackOrder]

theorem stackOrder_turn (p : List Byte) (n : FsNode) (stack : List (List Byte × FsNode)) :
    stackOrder ((p, n) :: stack) = entryAt p n :: stackOrder ((childrenAt p n).reverse ++ stack) := by
  have happend : ∀ a b, stackOrder (a ++ b) = stackOrder a ++ stackOrder b := fun _ _ => List.flatMap_append
  rw [happend, ← List.cons_append]
  cases n with
  | file name d => simp [stackOrder, childrenAt, entryAt, reversePreorder]
  | dir name cs =>
    rw [childrenAt, stackOrder_reverse_children, entryAt, ← List.singleton_append, happend]
    simp [stackOrder, reversePreorder]

/-- The loop lists what R191's words make of the stack, once its bound is the number of entries. -/
theorem dfsLoop_spec (fuel : Nat) (stack : List (List Byte × FsNode)) (hfuel : stackSize stack ≤ fuel) :
    dfsLoop fuel stack = stackOrder stack ∧ (dfsLoop fuel stack).length = stackSize stack := by
  induction fuel generalizing stack with
  | zero =>
    cases stack with
    | nil => exact ⟨rfl, rfl⟩
    | cons n stack => rw [stackSize_turn] at hfuel; omega
  | succ fuel ih =>
    match stack with
    | [] => exact ⟨rfl, rfl⟩
    | (p, n) :: stack =>
      rw [stackSize_turn] at hfuel
      obtain ⟨horder, hlength⟩ := ih ((childrenAt p n).reverse ++ stack) (by omega)
      rw [dfsLoop, stackOrder_turn, stackSize_turn, List.length_cons]
      exact ⟨congrArg _ horder, congrArg _ hlength⟩

/-- Settles O52: the loop on a stack that holds the root alone. -/
theorem dfsOrderIsReversedPreorder : Obligations.DfsOrderIsReversedPreorder := by
  unfold Obligations.DfsOrderIsReversedPreorder
  intro root
  have hsize : stackSize [(root.name, root)] = root.size := by simp [stackSize, FsNode.sizeAll]
  have horder : stackOrder [(root.name, root)] = reversePreorder root.name root := by simp [stackOrder]
  have hloop : ∀ fuel, root.size ≤ fuel → dfsLoop fuel [(root.name, root)] = reversePreorder root.name root :=
    fun fuel hfuel => (dfsLoop_spec fuel _ (hsize ▸ hfuel)).1.trans horder
  have hroot := hloop root.size le_rfl
  refine ⟨hroot, ?_, fun fuel hfuel => (hloop fuel hfuel).trans hroot.symm⟩
  exact (dfsLoop_spec root.size _ hsize.le).2.trans hsize

/-! ### The tables of a counted file (R123, R200) -/

/-- R131, R145: a symbol that was counted has a leaf in the rebuilt tree. -/
theorem mem_labels_of_fileHeader {f : FreqTable} {len : LenTable} {t : CodeTree} {c : CodeTable}
    (h : fileHeader f = .tables len t c) {a : Symbol} (ha : 0 < entry f a) : a ∈ t.labels := by
  obtain ⟨t₀, hbuild, hok, ⟨x, -, hover⟩ | ⟨u, hdeep, hrecon, htables⟩⟩ := fileHeader_cases f
  · cases hover.symm.trans h
  · cases htables.symm.trans h
    have hleaf : a ∈ t₀.labels := (buildTree_labels_perm hbuild).mem_iff.mpr (mem_leafSymbols_of_pos ha)
    obtain ⟨hnode, hnodup⟩ := hok
    obtain ⟨d, hd⟩ := (mem_labels_iff 0).mp hleaf
    have hlength := toNat_entry_lengthsOf hnodup hd (depth_le_of_tooDeep_eq_none hnodup hdeep _ hd)
    exact (mem_labels_iff 0).mpr ⟨d, (mem_depths_recon hrecon).mpr ⟨depth_pos hnode hd, hlength⟩⟩

theorem recon_of_fileHeader {f : FreqTable} {len : LenTable} {t : CodeTree} {c : CodeTable}
    (h : fileHeader f = .tables len t c) : recon len = some t ∧ c = codesOf t := by
  obtain ⟨t₀, -, -, ⟨x, -, hover⟩ | ⟨u, -, hrecon, htables⟩⟩ := fileHeader_cases f
  · cases hover.symm.trans h
  · cases htables.symm.trans h
    exact ⟨hrecon, rfl⟩

section
variable {d : List Byte} {len : LenTable} {t : CodeTree} {c : CodeTable}

theorem byteSymbol_mem_labels (h : fileHeader (countFile d) = .tables len t c) {b : Byte} (hb : b ∈ d) :
    byteSymbol b ∈ t.labels := by
  refine mem_labels_of_fileHeader h ?_
  rw [entry_countFile, count_byteSymbol_countedSymbols]
  exact List.count_pos_iff.mpr hb

theorem sentinel_mem_labels (h : fileHeader (countFile d) = .tables len t c) : sentinel ∈ t.labels := by
  refine mem_labels_of_fileHeader h ?_
  rw [entry_countFile, count_sentinel_countedSymbols]
  exact Nat.one_pos

theorem isSome_entry_codesOf (hnodup : t.labels.Nodup) {a : Symbol} (ha : a ∈ t.labels) :
    (entry (codesOf t) a).isSome = true := by
  obtain ⟨p, hp⟩ := exists_path_of_mem_labels ha
  rw [entry_codesOf_of_path hnodup hp, Option.isSome_some]

end

/-! ### Runs of commands that raise no error -/

theorem runClean_append {is js : List Instr} {s t : State} (h : runClean is s = some t) :
    runClean (is ++ js) s = runClean js t := by
  induction is generalizing s with
  | nil => cases h; rfl
  | cons i is ih =>
    rw [List.cons_append, runClean]
    rw [runClean] at h
    cases hexec : exec i s with
    | next u =>
      rw [hexec] at h
      obtain ⟨hclean, hrest⟩ := Option.ite_none_left_eq_some.mp h
      exact (if_neg hclean).trans (ih hrest)
    | fault r => rw [hexec] at h; cases h
    | refused r => rw [hexec] at h; cases h

theorem runClean_singleton {i : Instr} {s t : State} (h : exec i s = .next t) (hbusy : t.busy = false)
    (herr : t.err = false) : runClean [i] s = some t :=
  runClean_cons h hbusy herr

/-- With the parameters `c` and from phase `p` the commands run without error, append `bs` to OUT, and end in phase
`q`. -/
def Writes (c : Config) (p : Phase) (is : List Instr) (bs : List Byte) (q : Phase) : Prop :=
  ∀ s : State, s.cfg = c → s.fph = p → ∃ t, runClean is s = some t ∧ t.cfg = c ∧ t.out = s.out ++ bs ∧ t.fph = q

section
variable {c : Config} {p q r : Phase} {is js : List Instr} {bs cs : List Byte}

theorem Writes.nil (c : Config) (p : Phase) : Writes c p [] [] p :=
  fun s hc hp => ⟨s, rfl, hc, (List.append_nil _).symm, hp⟩

theorem Writes.append (h : Writes c p is bs q) (h' : Writes c q js cs r) : Writes c p (is ++ js) (bs ++ cs) r := by
  intro s hc hp
  obtain ⟨t, hrun, hct, hout, hq⟩ := h s hc hp
  obtain ⟨u, hrun', hcu, hout', hr⟩ := h' t hct hq
  exact ⟨u, (runClean_append hrun).trans hrun', hcu, by rw [hout', hout, List.append_assoc], hr⟩

/-- A command whose whole effect is known. -/
theorem Writes.of_exec {i : Instr} (h : ∀ s : State, s.cfg = c → s.fph = p →
    ∃ f, exec i s = .next { s.completed with out := s.out ++ bs, freq := f, fph := q }) : Writes c p [i] bs q := by
  intro s hc hp
  obtain ⟨f, hexec⟩ := h s hc hp
  exact ⟨_, runClean_singleton hexec rfl rfl, hc, rfl, rfl⟩

/-- The same field for each of a list of entries. -/
theorem Writes.flatMap {α : Type} {run : α → List Instr} {field : α → List Byte} (xs : List α)
    (h : ∀ x ∈ xs, Writes c p (run x) (field x) p) : Writes c p (xs.flatMap run) (xs.flatMap field) p := by
  induction xs with
  | nil => exact .nil c p
  | cons x xs ih =>
    obtain ⟨hx, hxs⟩ := List.forall_mem_cons.mp h
    exact hx.append (ih hxs)

end

/-! ### Writing a path (R194, R195) -/

/-- Within a path's phases a byte does not change where the path's end will lead. -/
theorem afterPath_of_pathByte {p : Phase} (h : p ∈ writerPathPhases) :
    (if p = .wManifest then .wMpath else p) ∈ writerPathPhases ∧
      afterPath (if p = .wManifest then .wMpath else p) = afterPath p := by
  cases p <;> revert h <;> decide

theorem runClean_awPath {path : List Byte} {s : State} (h : s.fph ∈ writerPathPhases)
    (hpath : pathAllowed s.cfg path) : runClean (awPath path) s =
      some { s.completed with out := s.out ++ pathField path, fph := afterPath s.fph } := by
  induction path generalizing s with
  | nil => exact runClean_singleton (exec_awPend h) rfl rfl
  | cons b path ih =>
    obtain ⟨⟨hnul, hmend⟩, hrest⟩ := List.forall_mem_cons.mp hpath
    obtain ⟨hphase, hafter⟩ := afterPath_of_pathByte h
    have hcons : awPath (b :: path) = .awPbyte b :: awPath path := rfl
    rw [hcons, runClean_cons (exec_awPbyte_ok h hnul hmend) rfl rfl]
    refine (ih ?_ ?_).trans ?_
    · exact hphase
    · exact hrest
    · simp only [hafter, List.append_assoc]
      rfl

theorem writes_awPath {c : Config} {p : Phase} (hp : p ∈ writerPathPhases) {path : List Byte}
    (hpath : pathAllowed c path) : Writes c p (awPath path) (pathField path) (afterPath p) := by
  rintro s rfl rfl
  exact ⟨_, runClean_awPath hp hpath, rfl, rfl, rfl⟩

/-! ### Writing a file (R199 to R202) -/

/-- R199: counting bytes whose counts stay within bounds. -/
theorem runClean_awCounts (d : List Byte) {s : State} (h : s.fph = .wFcount) {f : FreqTable}
    (hroom : ∀ x, entry f x + (d.map byteSymbol).count x ≤ s.cfg.cntMax) :
    runClean (awCounts d) { s.completed with freq := f } =
      some { s.completed with freq := (d.map byteSymbol).foldl countSymbol f } := by
  induction d generalizing f with
  | nil => rfl
  | cons b d ih =>
    have hb := hroom (byteSymbol b)
    rw [List.map_cons, List.count_cons_self] at hb
    have hstep : exec (.awCount b) { s.completed with freq := f } =
        .next { s.completed with freq := countSymbol f (byteSymbol b) } :=
      exec_awCount_room h (by dsimp only [State.completed_cfg]; omega)
    have hcons : awCounts (b :: d) = .awCount b :: awCounts d := rfl
    rw [hcons, runClean_cons hstep rfl rfl, List.map_cons, List.foldl_cons]
    exact ih fun x => (entry_countSymbol_add_count f _ x _).trans_le (hroom x)

/-- R201, R202: a run of `AW_SYM`s and an `AW_FEND` is the primitives in a row, on all the bits of the payload. -/
theorem runClean_awSyms_awFend {c : CodeTable} (d : List Byte) {s : State} (h : s.fph = .wPayload)
    (hc : s.code = some c) (hbytes : ∀ b ∈ d, (entry c (byteSymbol b)).isSome = true)
    (hsentinel : (entry c sentinel).isSome = true) : runClean (awSyms d ++ [.awFend]) s =
      some ((s.completed.bwPutAll (payloadBits c d)).bwClose.toPhase .wBlocks) := by
  induction d generalizing s with
  | nil =>
    obtain ⟨bits, hbits⟩ := Option.isSome_iff_exists.mp hsentinel
    rw [payloadBits_nil, hbits]
    obtain ⟨out, bw, hput⟩ := bwPutAll_frame s.completed bits
    exact runClean_singleton (exec_awFend_ok h ((codeFor_of_table hc _).trans hbits)) (by simp [hput]) (by simp [hput])
  | cons b d ih =>
    obtain ⟨hb, hrest⟩ := List.forall_mem_cons.mp hbytes
    obtain ⟨bits, hbits⟩ := Option.isSome_iff_exists.mp hb
    obtain ⟨out, bw, hput⟩ := bwPutAll_frame s.completed bits
    have hstep := exec_awSym_ok h ((codeFor_of_table hc _).trans hbits)
    have hdone : (s.completed.bwPutAll bits).completed = s.completed.bwPutAll bits := by rw [hput]; rfl
    have hcons : awSyms (b :: d) ++ [.awFend] = .awSym b :: (awSyms d ++ [.awFend]) := rfl
    rw [hcons, runClean_cons hstep (by rw [hput]; rfl) (by rw [hput]; rfl),
      ih (by rw [hput]; exact h) (by rw [hput]; exact hc) hrest, hdone, payloadBits_cons, hbits, Option.getD_some,
      bwPutAll_append]

/-- R168: what the payload's bits make of an empty BitWriter. -/
theorem bwClose_bwPutAll_payload (c : CodeTable) (d : List Byte) {s : State} (h : s.bw = []) :
    (s.bwPutAll (payloadBits c d)).bwClose = { s with out := s.out ++ payload c d, bw := [] } := by
  obtain ⟨bytes, hclose, hbits⟩ := bwClose_bwPutAll_bits (payloadBits c d) (s := s) (by simp [h])
  rw [hclose, payload_eq_of_bits (by simpa [h] using hbits)]

section
variable {c : Config} {d : List Byte}

theorem countBytes_eq (d : List Byte) : countBytes d = (d.map byteSymbol).foldl countSymbol freqZero :=
  List.foldl_map.symm

/-- R199, R200: neither counting the bytes nor counting the sentinel passes `CNT_MAX`. -/
theorem counts_in_bounds (hc : c.Valid) (hd : ∀ b, d.count b ≤ c.cntMax) :
    (∀ x, entry freqZero x + (d.map byteSymbol).count x ≤ c.cntMax) ∧ entry (countBytes d) sentinel ≠ c.cntMax := by
  have hall := (countedSymbols_bounded_iff d (one_le_cntMax hc)).mpr hd
  constructor
  · intro x
    rw [entry_freqZero, Nat.zero_add]
    exact ((List.sublist_append_left _ _).count_le x).trans (hall x)
  · have hsentinel := hall sentinel
    rw [← entry_countFile, countFile, entry_countSymbol, if_pos rfl] at hsentinel
    omega

section
variable {s : State}

/-- R198: the file's tag and its path, with the counters cleared. -/
theorem runClean_awFile_awPath (h : s.fph = .wBlocks) {path : List Byte} (hpath : pathAllowed s.cfg path) :
    runClean ([.awFile] ++ awPath path) s = some { s.completed with
      out := s.out ++ [s.cfg.tagFile] ++ pathField path, freq := freqZero, fph := .wFcount } :=
  (runClean_append (runClean_singleton (exec_awFile h) rfl rfl)).trans
    (runClean_awPath (by decide : Phase.wFpath ∈ writerPathPhases) hpath)

/-- R199, R200: the file is counted, and its table of lengths written. -/
theorem runClean_awCounts_awFilehdr (hc : s.cfg.Valid) (hd : ∀ b, d.count b ≤ s.cfg.cntMax) (h : s.fph = .wFcount)
    {len : LenTable} {t : CodeTree} {code : CodeTable} (hheader : fileHeader (countFile d) = .tables len t code) :
    runClean (awCounts d ++ [.awFilehdr]) { s.completed with freq := freqZero } = some { s.completed with
      out := s.out ++ len.toList, freq := countFile d, len := len, tree := some t, code := some code, bw := []
      fph := .wPayload } := by
  obtain ⟨hroom, hsentinelRoom⟩ := counts_in_bounds hc hd
  have hcounted := runClean_awCounts d h hroom
  rw [← countBytes_eq] at hcounted
  rw [runClean_append hcounted]
  exact runClean_singleton (exec_awFilehdr_tables (s := { s.completed with freq := countBytes d }) h hsentinelRoom
    hheader) rfl rfl

/-- R201, R202: from an empty BitWriter the file's bytes and its end write the payload. -/
theorem runClean_payload (h : s.fph = .wPayload) {len : LenTable} {t : CodeTree} {code : CodeTable}
    (hheader : fileHeader (countFile d) = .tables len t code) (hcode : s.code = some code) (hbw : s.bw = []) :
    runClean (awSyms d ++ [.awFend]) s =
      some { s.completed with out := s.out ++ payload code d, bw := [], fph := .wBlocks } := by
  obtain ⟨hrecon, rfl⟩ := recon_of_fileHeader hheader
  obtain ⟨⟨-, hnodup⟩, -⟩ := recon_ok hrecon
  rw [runClean_awSyms_awFend d h hcode
    (fun b hb => isSome_entry_codesOf hnodup (byteSymbol_mem_labels hheader hb))
    (isSome_entry_codesOf hnodup (sentinel_mem_labels hheader)), bwClose_bwPutAll_payload _ _ (s := s.completed) hbw]
  rfl

end

/-- From the file's tag to its end: the table of lengths and the payload follow the path. -/
theorem writes_fileBlock (hc : c.Valid) {path : List Byte} (hpath : pathAllowed c path)
    (hd : ∀ b, d.count b ≤ c.cntMax) {len : LenTable} {t : CodeTree} {code : CodeTable}
    (hheader : fileHeader (countFile d) = .tables len t code) :
    Writes c .wBlocks ([.awFile] ++ awPath path ++ awCounts d ++ [.awFilehdr] ++ awSyms d ++ [.awFend])
      (c.tagFile :: pathField path ++ len.toList ++ payload code d) .wBlocks := by
  rintro s rfl hp
  have hparts : [.awFile] ++ awPath path ++ awCounts d ++ [.awFilehdr] ++ awSyms d ++ [.awFend] =
      ([.awFile] ++ awPath path) ++ ((awCounts d ++ [.awFilehdr]) ++ (awSyms d ++ [.awFend])) := by
    simp only [List.append_assoc]
  have hnamed := runClean_awFile_awPath hp hpath
  have hrest := (runClean_append (runClean_awCounts_awFilehdr (s := { s with
    out := s.out ++ [s.cfg.tagFile] ++ pathField path, fph := .wFcount }) hc hd rfl hheader)).trans
    (runClean_payload rfl hheader rfl rfl)
  rw [hparts]
  exact ⟨_, (runClean_append hnamed).trans hrest, rfl, by simp, rfl⟩

end

/-! ### The write run (R205) -/

section
variable {c : Config}

theorem writes_block (hc : c.Valid) {e : ArchiveEntry} (hpath : pathAllowed c e.path)
    (hcount : ∀ d, e.content = some d → ∀ b, d.count b ≤ c.cntMax) {bytes : List Byte}
    (h : blockOf c e = some bytes) : Writes c .wBlocks (writeBlock e) bytes .wBlocks := by
  cases hcontent : e.content with
  | none =>
    simp only [blockOf, hcontent, Option.some.injEq] at h
    simp only [writeBlock, hcontent, ← h]
    have htag : Writes c .wBlocks [.awDir] [c.tagDir] .wDpath := .of_exec fun s hs hp => ⟨s.freq, hs ▸ exec_awDir hp⟩
    exact htag.append (writes_awPath (by decide) hpath)
  | some d =>
    simp only [blockOf, hcontent] at h
    simp only [writeBlock, hcontent]
    split at h <;> cases h
    case h_1 hheader => exact writes_fileBlock hc hpath (hcount d hcontent) hheader

theorem writes_blocks (hc : c.Valid) (es : List ArchiveEntry) (hpath : ∀ e ∈ es, pathAllowed c e.path)
    (hcount : ∀ e ∈ es, ∀ d, e.content = some d → ∀ b, d.count b ≤ c.cntMax) {bytes : List Byte}
    (h : blocksOf c es = some bytes) : Writes c .wBlocks (es.flatMap writeBlock) bytes .wBlocks := by
  induction es generalizing bytes with
  | nil => cases h; exact .nil c _
  | cons e es ih =>
    obtain ⟨hpe, hpes⟩ := List.forall_mem_cons.mp hpath
    obtain ⟨hce, hces⟩ := List.forall_mem_cons.mp hcount
    rw [blocksOf] at h
    split at h <;> cases h
    case h_1 x y hx hy => exact (writes_block hc hpe hce hx).append (ih hpes hces hy)

theorem writes_writeRun (hc : c.Valid) {es : List ArchiveEntry} (hpath : ∀ e ∈ es, pathAllowed c e.path)
    (hcount : ∀ e ∈ es, ∀ d, e.content = some d → ∀ b, d.count b ≤ c.cntMax) {bytes : List Byte}
    (h : archiveOf c es = some bytes) : Writes c .idle (writeRun es) bytes .idle := by
  obtain ⟨blocks, hblocks, rfl⟩ := Option.map_eq_some_iff.mp h
  have hbegin : Writes c .idle [.awBegin] [c.magic0, c.magic1] .wManifest :=
    .of_exec fun s hs hp => ⟨s.freq, hs ▸ exec_awBegin hp⟩
  have hmanifest : Writes c .wManifest (es.flatMap fun e => awPath e.path) (manifestOf es) .wManifest :=
    .flatMap es fun e he => writes_awPath (by decide) (hpath e he)
  have hmend : Writes c .wManifest [.awMend] [c.mend] .wBlocks := .of_exec fun s hs hp => ⟨s.freq, hs ▸ exec_awMend hp⟩
  have hend : Writes c .wBlocks [.awEnd] [] .idle :=
    .of_exec fun s _ hp => ⟨s.freq, by rw [exec_awEnd hp, List.append_nil]; rfl⟩
  simpa [writeRun] using
    (((hbegin.append hmanifest).append hmend).append (writes_blocks hc es hpath hcount hblocks)).append hend

end

/-- Settles O51: the run is its five parts in a row, and each writes its field of R190. -/
theorem writeRunWritesTheArchive : Obligations.WriteRunWritesTheArchive := by
  unfold Obligations.WriteRunWritesTheArchive
  intro s es bytes hidle hvalid hpath hcount harchive
  obtain ⟨t, hrun, -, hout, hend⟩ := writes_writeRun hvalid hpath hcount harchive s rfl hidle
  exact ⟨t, hrun, hout, hend⟩

end Sys2Proof.Machine

/-! ## The archive reader -/

namespace Sys2Proof.Machine

/-! ### The magic (R222) -/

theorem magicWord_eq (c0 c1 : Byte) :
    (byteWord c1 <<< 8) ||| byteWord c0 = BitVec.ofNat 32 (256 * c1.toNat + c0.toNat) := by
  refine BitVec.eq_of_toNat_eq ?_
  have h0 := c0.isLt
  have h1 := c1.isLt
  have hlow : c1.toNat <<< 8 + c0.toNat = c1.toNat <<< 8 ||| c0.toNat := Nat.shiftLeft_add_eq_or_of_lt h0 _
  have hshift : c1.toNat <<< 8 = 256 * c1.toNat := by rw [Nat.shiftLeft_eq]; omega
  rw [BitVec.toNat_or, BitVec.toNat_shiftLeft, byteWord, byteWord, BitVec.toNat_setWidth, BitVec.toNat_setWidth,
    Nat.mod_eq_of_lt (by omega : c1.toNat < 2 ^ 32), Nat.mod_eq_of_lt (by omega : c0.toNat < 2 ^ 32),
    Nat.mod_eq_of_lt (by omega : c1.toNat <<< 8 < 2 ^ 32), ← hlow, hshift, BitVec.toNat_ofNat,
    Nat.mod_eq_of_lt (by omega)]

section
variable {s : State} {c c0 c1 : Byte} {rest : List Byte}

theorem withoutInput (h : s.inq = []) : { s with inq := [] } = s := by
  rw [← h]

theorem exec_arMagic_ok (h : s.fph = .idle) (hinq : s.inq = s.cfg.magic0 :: s.cfg.magic1 :: rest) :
    exec .arMagic s = .next { s.completed with inq := rest, fph := .rManifest } := by
  unfold exec
  exact command_inPhase_done (t := State.toPhase { s.accept with inq := rest } .rManifest) h
    (by simp [inRead, hinq, checkMagic])

theorem exec_arMagic_mismatch (h : s.fph = .idle) (hinq : s.inq = c0 :: c1 :: rest)
    (hne : c0 ≠ s.cfg.magic0 ∨ c1 ≠ s.cfg.magic1) : exec .arMagic s =
      .next { s.failed .badMagic (BitVec.ofNat 32 (256 * c1.toNat + c0.toNat)) with inq := rest, fph := .fatal } := by
  unfold exec
  rw [← magicWord_eq]
  exact command_inPhase_done
    (t := (State.toPhase { s.accept with inq := rest } .fatal).report .badMagic ((byteWord c1 <<< 8) ||| byteWord c0)) h
    (by simp only [inRead, State.accept_inq, hinq, checkMagic, State.accept_cfg, if_pos hne, raiseFatal_eq])

/-- The two bytes are read before they are compared, so a stream of one byte is short too. -/
theorem exec_arMagic_short (h : s.fph = .idle) (hlen : s.inq.length < 2) (heos : s.eos = true) : exec .arMagic s =
    .next { s.failed .badMagic 0x200#32 with endf := true, inq := [], fph := .fatal } := by
  unfold exec
  refine command_inPhase_done
    (t := (State.toPhase (State.setEnd { s.accept with inq := [] }) .fatal).report .badMagic endInfo) h ?_
  match hinq : s.inq, hlen with
  | [], _ =>
    rw [withoutInput (s := s.accept) hinq]
    simp [inRead, hinq, heos]
  | [c], _ => simp [inRead, hinq, heos]

theorem exec_arMagic_hold (h : s.fph = .idle) (hlen : s.inq.length < 2) (heos : s.eos = false) :
    exec .arMagic s = .next s.held := by
  unfold exec
  refine command_inPhase_hold h ?_
  match hinq : s.inq, hlen with
  | [], _ => simp [inRead, hinq, heos]
  | [c], _ => simp [inRead, hinq, heos]

end

/-- Settles O53: the outcomes by how many bytes there are, and by their comparison. -/
theorem readerChecksTheMagic : Obligations.ReaderChecksTheMagic := by
  unfold Obligations.ReaderChecksTheMagic
  exact ⟨rfl, fun s => ⟨exec_of_phase_ne rfl, fun h => ⟨fun rest => exec_arMagic_ok h,
    fun c0 c1 rest => exec_arMagic_mismatch h, exec_arMagic_short h, exec_arMagic_hold h⟩⟩⟩

/-! ### The manifest (R223, R224) -/

section
variable {s : State} {c : Byte} {pre rest : List Byte}

theorem exec_arMbyte_mend (h : s.fph = .rManifest) (hinq : s.inq = s.cfg.mend :: rest) :
    exec .arMbyte s = .next { s.completed with result := 0x101#32, inq := rest, fph := .rEntry } := by
  unfold exec
  exact command_inPhase_done
    (t := (State.withResult { s.accept with inq := rest } manifestEndResult).toPhase .rEntry) h
    (by simp [inRead, hinq])

theorem exec_arMbyte_nul (h : s.fph = .rManifest) (hinq : s.inq = 0x00#8 :: rest) (hmend : 0x00#8 ≠ s.cfg.mend) :
    exec .arMbyte s = .next { s.completed with result := 0x100#32, inq := rest } := by
  unfold exec
  exact command_inPhase_done (t := State.withResult { s.accept with inq := rest } pathEndResult) h
    (by simp [inRead, hinq, hmend])

theorem exec_arMbyte_byte (h : s.fph = .rManifest) (hinq : s.inq = c :: rest) (hmend : c ≠ s.cfg.mend)
    (hnul : c ≠ 0x00#8) : exec .arMbyte s = .next { s.completed with result := c.setWidth 32, inq := rest } := by
  unfold exec
  exact command_inPhase_done (t := State.withResult { s.accept with inq := rest } (byteWord c)) h
    (by simp [inRead, hinq, hmend, hnul])

theorem exec_arMbyte_ended (h : s.fph = .rManifest) (hinq : s.inq = []) (heos : s.eos = true) :
    exec .arMbyte s = .next { s.failed .truncated 0x200#32 with endf := true, fph := .fatal } := by
  unfold exec
  exact command_inPhase_done (t := (s.accept.setEnd.toPhase .fatal).report .truncated endInfo) h
    (by simp [inRead, hinq, heos])

theorem exec_arMbyte_hold (h : s.fph = .rManifest) (hinq : s.inq = []) (heos : s.eos = false) :
    exec .arMbyte s = .next s.held := by
  unfold exec
  exact command_inPhase_hold h (by simp [inRead, hinq, heos])

theorem exec_arSkipm_found (h : s.fph = .rManifest) (hinq : s.inq = pre ++ s.cfg.mend :: rest)
    (hpre : s.cfg.mend ∉ pre) :
    exec .arSkipm s = .next { s.completed with result := 0#32, inq := rest, fph := .rEntry } := by
  have hscan : inReadPast s.cfg.mend s.accept = .found { s.accept with inq := rest } :=
    inReadUntil_found (s := s.accept) _ hinq hpre (by simp [hinq])
  unfold exec
  exact command_inPhase_done (t := (State.withResult { s.accept with inq := rest } 0#32).toPhase .rEntry) h
    (by simp [hscan])

theorem inReadPast_absent {m : Byte} (h : m ∉ s.inq) :
    inReadPast m s = if s.eos = true then .atEnd { s with inq := [] } else .hold :=
  inReadUntil_absent _ h (Nat.lt_succ_self _)

theorem exec_arSkipm_ended (h : s.fph = .rManifest) (hmend : s.cfg.mend ∉ s.inq) (heos : s.eos = true) :
    exec .arSkipm s = .next { s.failed .truncated 0x200#32 with endf := true, inq := [], fph := .fatal } := by
  have hscan : inReadPast s.cfg.mend s.accept = .atEnd { s.accept with inq := [] } :=
    (inReadPast_absent (s := s.accept) hmend).trans (if_pos heos)
  unfold exec
  exact command_inPhase_done
    (t := (State.toPhase (State.setEnd { s.accept with inq := [] }) .fatal).report .truncated endInfo) h
    (by simp [hscan])

theorem exec_arSkipm_hold (h : s.fph = .rManifest) (hmend : s.cfg.mend ∉ s.inq) (heos : s.eos = false) :
    exec .arSkipm s = .next s.held := by
  have hscan : inReadPast s.cfg.mend s.accept = .hold :=
    (inReadPast_absent (s := s.accept) hmend).trans (if_neg (by simp [heos]))
  unfold exec
  exact command_inPhase_hold h (by simp [hscan])

end

/-- Settles O54: the byte read decides, `MEND` before NUL, and the scan stops at the first `MEND`. -/
theorem readerManifest : Obligations.ReaderManifest := by
  unfold Obligations.ReaderManifest
  refine ⟨rfl, rfl, fun s => ⟨fun h => ⟨exec_of_phase_ne rfl h, exec_of_phase_ne rfl h⟩, fun h =>
    ⟨fun c rest hinq => ⟨?_, ?_, exec_arMbyte_byte h hinq⟩, fun pre rest => exec_arSkipm_found h,
      exec_arMbyte_ended h, exec_arMbyte_hold h, exec_arSkipm_ended h, exec_arSkipm_hold h⟩⟩⟩
  · rintro rfl
    exact exec_arMbyte_mend h hinq
  · rintro hmend rfl
    exact exec_arMbyte_nul h hinq hmend

/-! ### Entries and paths (R225, R226) -/

section
variable {s : State} {c : Byte} {rest : List Byte}

theorem exec_arEntry_dir (h : s.fph = .rEntry) (hinq : s.inq = s.cfg.tagDir :: rest) :
    exec .arEntry s = .next { s.completed with result := 1#32, inq := rest, fph := .rDpath } := by
  unfold exec
  exact command_inPhase_done (t := (State.withResult { s.accept with inq := rest } 1#32).toPhase .rDpath) h
    (by simp [inRead, hinq])

theorem exec_arEntry_file (h : s.fph = .rEntry) (hinq : s.inq = s.cfg.tagFile :: rest)
    (hne : s.cfg.tagFile ≠ s.cfg.tagDir) :
    exec .arEntry s = .next { s.completed with result := 2#32, inq := rest, fph := .rFpath } := by
  unfold exec
  exact command_inPhase_done (t := (State.withResult { s.accept with inq := rest } 2#32).toPhase .rFpath) h
    (by simp [inRead, hinq, hne])

theorem exec_arEntry_badTag (h : s.fph = .rEntry) (hinq : s.inq = c :: rest) (hdir : c ≠ s.cfg.tagDir)
    (hfile : c ≠ s.cfg.tagFile) :
    exec .arEntry s = .next { s.failed .badTag (c.setWidth 32) with inq := rest, fph := .fatal } := by
  unfold exec
  exact command_inPhase_done
    (t := (State.toPhase { s.accept with inq := rest } .fatal).report .badTag (byteWord c)) h
    (by simp [inRead, hinq, hdir, hfile])

theorem exec_arEntry_ended (h : s.fph = .rEntry) (hinq : s.inq = []) (heos : s.eos = true) :
    exec .arEntry s = .next { s.completed with endf := true, result := 0#32, fph := .rDone } := by
  unfold exec
  exact command_inPhase_done (t := (s.accept.setEnd.withResult 0#32).toPhase .rDone) h (by simp [inRead, hinq, heos])

theorem exec_arEntry_hold (h : s.fph = .rEntry) (hinq : s.inq = []) (heos : s.eos = false) :
    exec .arEntry s = .next s.held := by
  unfold exec
  exact command_inPhase_hold h (by simp [inRead, hinq, heos])

/-- The phases in which the reader takes a path (R226). -/
theorem mem_readerPathPhases (h : s.fph = .rDpath ∨ s.fph = .rFpath) : s.fph ∈ [Phase.rDpath, .rFpath] := by
  simpa using h

theorem exec_arPbyte_byte (h : s.fph = .rDpath ∨ s.fph = .rFpath) (hinq : s.inq = c :: rest) (hnul : c ≠ 0x00#8) :
    exec .arPbyte s = .next { s.completed with result := c.setWidth 32, inq := rest } := by
  unfold exec
  exact (command_inPhase_in (mem_readerPathPhases h) _).trans <| command_done
    (t := State.withResult { s.accept with inq := rest } (byteWord c)) (by simp [inRead, hinq, hnul])

theorem exec_arPbyte_nul (h : s.fph = .rDpath ∨ s.fph = .rFpath) (hinq : s.inq = 0x00#8 :: rest) :
    exec .arPbyte s = .next { s.completed with
      result := 0x100#32, inq := rest, fph := if s.fph = .rDpath then .rEntry else .rLens } := by
  unfold exec
  exact (command_inPhase_in (mem_readerPathPhases h) _).trans <| command_done
    (t := (State.withResult { s.accept with inq := rest } pathEndResult).toPhase
      (if s.fph = .rDpath then .rEntry else .rLens)) (by simp only [inRead, State.accept_inq, hinq, if_true]; rfl)

theorem exec_arPbyte_ended (h : s.fph = .rDpath ∨ s.fph = .rFpath) (hinq : s.inq = []) (heos : s.eos = true) :
    exec .arPbyte s = .next { s.failed .truncated 0x200#32 with endf := true, fph := .fatal } := by
  unfold exec
  exact (command_inPhase_in (mem_readerPathPhases h) _).trans <| command_done
    (t := (s.accept.setEnd.toPhase .fatal).report .truncated endInfo) (by simp [inRead, hinq, heos])

theorem exec_arPbyte_hold (h : s.fph = .rDpath ∨ s.fph = .rFpath) (hinq : s.inq = []) (heos : s.eos = false) :
    exec .arPbyte s = .next s.held := by
  unfold exec
  exact (command_inPhase_in (mem_readerPathPhases h) _).trans <| command_hold (by simp [inRead, hinq, heos])

end

/-- Settles O55: the byte read decides, the directory's tag before the file's. -/
theorem readerEntriesAndPaths : Obligations.ReaderEntriesAndPaths := by
  unfold Obligations.ReaderEntriesAndPaths
  refine ⟨rfl, rfl, fun s => ⟨exec_of_phase_ne rfl, fun h => ⟨fun c rest hinq =>
      ⟨?_, ?_, exec_arEntry_badTag h hinq⟩, exec_arEntry_ended h, exec_arEntry_hold h⟩,
    fun hdir hfile => exec_of_phase_notMem rfl (by simp [hdir, hfile]), fun h => ⟨fun c rest hinq =>
      ⟨exec_arPbyte_byte h hinq, ?_⟩, exec_arPbyte_ended h, exec_arPbyte_hold h⟩⟩⟩
  · rintro rfl
    exact exec_arEntry_dir h hinq
  · rintro hdir rfl
    exact exec_arEntry_file h hinq hdir
  · rintro rfl
    exact exec_arPbyte_nul h hinq

/-! ### The header of a file (R228) -/

section
variable {s : State} {len : LenTable} {rest : List Byte}

/-- R147, R228: the 257 bytes of a table are read back as the table. -/
theorem inReadTable_toList (hinq : s.inq = len.toList ++ rest) :
    inReadTable s.accept = .full len.toList { s.accept with inq := rest } :=
  inReadTable_full len.length_toList hinq

theorem exec_arFilehdr_ok (h : s.fph = .rLens) (hinq : s.inq = len.toList ++ rest) {t : CodeTree}
    (hrecon : recon len = some t) : exec .arFilehdr s = .next { s.completed with
      inq := rest, len := len, tree := some t, br := ⟨0x00#8, 0, false⟩, fph := .rPayload } := by
  unfold exec
  exact command_inPhase_done (t := { (State.openReader { s.accept with inq := rest }).toPhase .rPayload with
    len := len, tree := some t }) h (by simp [inReadTable_toList hinq, tableOfBytes_toList, hrecon])

theorem exec_arFilehdr_nonCanonical (h : s.fph = .rLens) (hinq : s.inq = len.toList ++ rest)
    (hrecon : recon len = none) :
    exec .arFilehdr s = .next { s.failed .nonCanonical 0#32 with inq := rest, fph := .fatal } := by
  unfold exec
  exact command_inPhase_done (t := (State.toPhase { s.accept with inq := rest } .fatal).report .nonCanonical 0#32) h
    (by simp [inReadTable_toList hinq, tableOfBytes_toList, hrecon])

theorem exec_arFilehdr_short (h : s.fph = .rLens) (hlen : s.inq.length < 257) (heos : s.eos = true) :
    exec .arFilehdr s = .next { s.failed .truncated (BitVec.ofNat 32 s.inq.length) with
      endf := true, inq := [], fph := .rEntry } := by
  unfold exec
  exact command_inPhase_done (t := (State.toPhase (State.setEnd { s.accept with inq := [] }) .rEntry).report .truncated
    (BitVec.ofNat 32 s.inq.length)) h (by simp [inReadTable_short (s := s.accept) hlen heos])

theorem exec_arFilehdr_hold (h : s.fph = .rLens) (hlen : s.inq.length < 257) (heos : s.eos = false) :
    exec .arFilehdr s = .next s.held := by
  unfold exec
  exact command_inPhase_hold h (by simp [inReadTable_hold (s := s.accept) hlen heos])

end

/-- Settles O56, by the Kraft law. -/
theorem readerFileHeader : Obligations.ReaderFileHeader := by
  unfold Obligations.ReaderFileHeader
  refine ⟨rfl, fun s => ⟨exec_of_phase_ne rfl, fun h => ⟨fun len rest hinq => ⟨fun hkraft => ?_, fun hkraft => ?_⟩,
    exec_arFilehdr_short h, exec_arFilehdr_hold h⟩⟩⟩
  · obtain ⟨t, ht⟩ := (exists_recon_iff len).mpr hkraft
    exact ⟨t, ht, exec_arFilehdr_ok h hinq ht⟩
  · refine exec_arFilehdr_nonCanonical h hinq (Option.eq_none_iff_forall_ne_some.mpr fun t ht => ?_)
    exact hkraft ((exists_recon_iff len).mp ⟨t, ht⟩)

/-! ### The payload (R229) -/

section
variable {s u : State} {t : CodeTree} {a : Symbol}

theorem exec_arSym_symbol (h : s.fph = .rPayload) (ht : s.tree = some t) (hwalk : walk t s.accept = .symbol a u) :
    exec .arSym s = .next (finishSymbol a u).complete := by
  unfold exec
  exact command_inPhase_done h (by simp [ht, hwalk])

theorem exec_arSym_ended (h : s.fph = .rPayload) (ht : s.tree = some t) (hwalk : walk t s.accept = .ended u) :
    exec .arSym s = .next ((u.setEnd.closeReader.toPhase .rEntry).report .truncated 0x200#32).complete := by
  unfold exec
  exact command_inPhase_done h (by simp [ht, hwalk, endInfo])

theorem exec_arSym_hold (h : s.fph = .rPayload) (ht : s.tree = some t) (hwalk : walk t s.accept = .hold) :
    exec .arSym s = .next s.held := by
  unfold exec
  exact command_inPhase_hold h (by simp [ht, hwalk])

/-- When the bits ahead start with a leaf's path, its symbol ends the command as R229 says. -/
theorem exec_arSym_path (h : s.fph = .rPayload) (ht : s.tree = some t) (hnode : t.isNode = true)
    (hopen : s.br.closed = false) (hrem : s.br.rem ≤ 8) {p rest : Bits} (hp : (a, p) ∈ t.paths [])
    (hahead : s.bitsAhead = p ++ rest) : ∃ u, s.completed.Advances u ∧ u.bitsAhead = rest ∧
      (a ≠ sentinel → exec .arSym s = .next { u with result := symbolWord a }) ∧
      (a = sentinel → exec .arSym s = .next { u with
        result := 256#32, sent := true, br := ⟨0x00#8, 0, true⟩, fph := .rEntry }) := by
  obtain ⟨u, hwalk, hadv, hrest⟩ := walk_of_path (s := s.accept) hopen hrem (.inl hnode) hp hahead
  refine ⟨u.complete, hadv.complete, hrest, fun ha => ?_, fun ha => ?_⟩
  · rw [exec_arSym_symbol h ht hwalk, finishSymbol, if_neg ha]
    rfl
  · rw [exec_arSym_symbol h ht hwalk, finishSymbol, if_pos ha, ha]
    rfl

end

/-- Settles O57: the walk ends at the leaf whose path the bits ahead start with, or takes them all. -/
theorem readerDecodesThePayload : Obligations.ReaderDecodesThePayload := by
  unfold Obligations.ReaderDecodesThePayload
  refine ⟨rfl, fun s => ⟨exec_of_phase_ne rfl, fun t h ht hnode => ⟨fun hclosed => ?_, fun hopen hrem =>
    ⟨fun a p rest hp hahead => ?_, fun hnone => ?_⟩⟩⟩⟩
  · cases t with
    | leaf a => cases hnode
    | node l r => exact exec_arSym_ended h ht (walk_of_closed (s := s.accept) hclosed)
  · obtain ⟨u, ⟨taken, q, r, rfl, hinq, hbuf, hopen', hrem'⟩, hrest, hbyte, hend⟩ :=
      exec_arSym_path h ht hnode hopen hrem hp hahead
    have hbits : r.pending ++ bitsOfBytes q = rest := (bitsAhead_of_open hopen').symm.trans hrest
    exact ⟨fun ha => ⟨taken, q, r, hbyte ha, hinq, hbuf, hopen', hrem', hbits⟩,
      fun ha => ⟨q, hend ha, r.pending, (length_pending r).trans_le hrem', hbits⟩⟩
  · have hwalk := walk_of_noPath (s := s.accept) hopen hrem hnone
    exact ⟨fun heos => exec_arSym_ended h ht (hwalk.trans (if_pos heos)),
      fun heos => exec_arSym_hold h ht (hwalk.trans (if_neg (by simp [heos])))⟩

/-! ### The end of a run (R231, R232) -/

section
variable {s : State}

theorem exec_arEnd (h : s.fph = .rEntry ∨ s.fph = .rDone) : exec .arEnd s = .next { s.completed with
    br := ⟨0x00#8, 0, true⟩, inq := [], eos := false, fph := .idle } := by
  have hmem : s.fph ∈ [Phase.rEntry, .rDone] := by simpa using h
  unfold exec
  exact command_inPhase_in hmem _

theorem exec_frAbort (s : State) : exec .frAbort s = .next { s.completed with
    bw := [], br := ⟨0x00#8, 0, true⟩, inq := [], eos := false, fph := .idle } :=
  command_done (rule := fun s => .done { s.closeReader.restartIn.toPhase .idle with bw := [] }) rfl

end

/-- Settles O58: both are plain rules, `AR_END` behind its phase check. -/
theorem runsEndAndAbort : Obligations.RunsEndAndAbort := by
  unfold Obligations.RunsEndAndAbort
  exact ⟨rfl, rfl, fun s => ⟨exec_arEnd, fun hentry hdone => exec_of_phase_notMem rfl (by simp [hentry, hdone]),
    exec_frAbort s⟩⟩

end Sys2Proof.Machine

/-! ## The host's read procedures -/

namespace Sys2Proof.Machine

/-! ### Issuing one command (R234) -/

/-- A command that completes and leaves no fatal phase hands its state on. -/
theorem issueOr_next {α : Type} {i : Instr} {s t : State} {go : State → Procedure α} (h : exec i s = .next t)
    (hbusy : t.busy = false) (hphase : t.fph ≠ .fatal) : issueOr i s go = go t := by
  have hflag : t.fatalFlag = false := beq_eq_false_iff_ne.mpr hphase
  simp [issueOr, runOne_of_exec h hbusy, hflag]

/-- R231: the last command of a read run. -/
theorem issueOr_arEnd {α : Type} {s : State} (h : s.fph = .rEntry ∨ s.fph = .rDone) (a : α) :
    ∃ t, issueOr .arEnd s (.finished a) = .finished a t ∧ t.fph = .idle :=
  ⟨_, issueOr_next (exec_arEnd h) rfl (by simp), rfl⟩

/-- A byte as a result is none of the marks above 255 (R223, R226, R229). -/
theorem byteResult_ne {w : Word} (h : 256 ≤ w.toNat) (b : Byte) : b.setWidth 32 ≠ w := by
  bv_omega

/-! ### Reading a path (R226, R234) -/

section
variable {α : Type} {s : State}

theorem readPath_eq {path rest : List Byte} (hnul : ∀ b ∈ path, b ≠ 0x00#8) (h : s.fph = .rDpath ∨ s.fph = .rFpath)
    (hinq : s.inq = pathField path ++ rest) {fuel : Nat} (hfuel : path.length < fuel) (got : List Byte)
    (go : List Byte → State → Procedure α) : readPath fuel got s go = go (got.reverse ++ path)
      { s.completed with result := 0x100#32, inq := rest, fph := if s.fph = .rDpath then .rEntry else .rLens } := by
  obtain ⟨fuel, rfl⟩ := Nat.exists_eq_add_one_of_ne_zero (Nat.ne_zero_of_lt hfuel)
  induction path generalizing s got fuel with
  | nil =>
    have hlive : (if s.fph = .rDpath then Phase.rEntry else .rLens) ≠ .fatal := by split <;> decide
    rw [readPath, issueOr_next (exec_arPbyte_nul h hinq) rfl hlive, List.append_nil]
    rfl
  | cons b path ih =>
    obtain ⟨hb, hrest⟩ := List.forall_mem_cons.mp hnul
    obtain ⟨fuel, rfl⟩ := Nat.exists_eq_add_one_of_ne_zero (n := fuel) (by simp at hfuel; omega)
    have hlive : s.fph ≠ .fatal := by rcases h with h | h <;> simp [h]
    rw [readPath, issueOr_next (exec_arPbyte_byte h hinq hb) rfl hlive]
    refine (if_neg (byteResult_ne (by decide) b)).trans ?_
    refine (ih (s := { s.completed with result := b.setWidth 32, inq := pathField path ++ rest }) hrest h rfl _ fuel
      (by simpa using hfuel)).trans ?_
    simp [State.resultByte]
    rfl

end

/-! ### Reading a payload (R229, R234) -/

section
variable {α : Type} {s : State} {t : CodeTree}

theorem State.Advances.completed_fields {u : State} (h : s.completed.Advances u) : u.cfg = s.cfg ∧ u.eos = s.eos ∧
    u.fph = s.fph ∧ u.tree = s.tree ∧ u.busy = false ∧ u.err = false := by
  obtain ⟨_, _, _, rfl, _⟩ := h
  exact ⟨rfl, rfl, rfl, rfl, rfl, rfl⟩

/-- `AR_SYM` on bits that start with a code of the tree. -/
theorem exec_arSym_code (hok : t.Ok) (h : s.fph = .rPayload) (ht : s.tree = some t) (hopen : s.br.closed = false)
    (hrem : s.br.rem ≤ 7) {a : Symbol} (ha : a ∈ t.labels) {rest : Bits}
    (hahead : s.bitsAhead = (entry (codesOf t) a).getD [] ++ rest) :
    ∃ u, s.completed.Advances u ∧ u.bitsAhead = rest ∧
      (a ≠ sentinel → exec .arSym s = .next { u with result := symbolWord a }) ∧
      (a = sentinel → exec .arSym s = .next { u with
        result := 256#32, sent := true, br := ⟨0x00#8, 0, true⟩, fph := .rEntry }) := by
  obtain ⟨hnode, hnodup⟩ := hok
  obtain ⟨p, hp⟩ := exists_path_of_mem_labels ha
  rw [entry_codesOf_of_path hnodup hp, Option.getD_some] at hahead
  exact exec_arSym_path h ht hnode hopen (by omega) hp hahead

/-- R184, R234: the bytes of a file are read, and its sentinel leaves IN at the byte after the padding. -/
theorem readPayload_eq (hok : t.Ok) (hsentinel : sentinel ∈ t.labels) {d : List Byte}
    (hd : ∀ b ∈ d, byteSymbol b ∈ t.labels) (h : s.fph = .rPayload) (ht : s.tree = some t)
    (hopen : s.br.closed = false) (hrem : s.br.rem ≤ 7) {padding : Bits} (hpadding : padding.length ≤ 7)
    {rest : List Byte} (hahead : s.bitsAhead = payloadBits (codesOf t) d ++ (padding ++ bitsOfBytes rest)) {fuel : Nat}
    (hfuel : d.length < fuel) (got : List Byte) :
    ∃ u, (∀ go : List Byte → Bool → State → Procedure α, readPayload fuel got s go = go (got.reverse ++ d) false u) ∧
      u.cfg = s.cfg ∧ u.eos = s.eos ∧ u.fph = .rEntry ∧ u.inq = rest := by
  obtain ⟨fuel, rfl⟩ := Nat.exists_eq_add_one_of_ne_zero (Nat.ne_zero_of_lt hfuel)
  induction d generalizing s got fuel with
  | nil =>
    rw [payloadBits_nil] at hahead
    obtain ⟨u, hadv, hrest, -, hend⟩ := exec_arSym_code hok h ht hopen hrem hsentinel hahead
    obtain ⟨hcfg, heos, -, -, hbusy, herr⟩ := hadv.completed_fields
    obtain ⟨-, hinq⟩ := reader_at_padding hadv.isOpen hadv.rem_le hpadding hrest
    refine ⟨{ u with result := 256#32, sent := true, br := ⟨0x00#8, 0, true⟩, fph := .rEntry }, fun go => ?_, hcfg,
      heos, rfl, hinq⟩
    rw [readPayload, issueOr_next (hend rfl) hbusy (by simp)]
    simp [herr]
  | cons b d ih =>
    obtain ⟨hb, hd'⟩ := List.forall_mem_cons.mp hd
    obtain ⟨fuel, rfl⟩ := Nat.exists_eq_add_one_of_ne_zero (n := fuel) (by simp at hfuel; omega)
    rw [payloadBits_cons, List.append_assoc] at hahead
    obtain ⟨u, hadv, hrest, hbyte, -⟩ := exec_arSym_code hok h ht hopen hrem hb hahead
    obtain ⟨hcfg, heos, hphase, htree, hbusy, herr⟩ := hadv.completed_fields
    obtain ⟨w, hread, hcfg', heos', hend⟩ := ih (s := { u with result := b.setWidth 32 }) hd' (hphase.trans h)
      (htree.trans ht) hadv.isOpen hadv.rem_le hrest (b :: got) fuel (by simpa using hfuel)
    refine ⟨w, fun go => ?_, hcfg'.trans hcfg, heos'.trans heos, hend⟩
    have hlive : u.fph ≠ .fatal := by simp [hphase, h]
    have hexec := hbyte (byteSymbol_ne_sentinel b)
    rw [symbolWord_byteSymbol] at hexec
    rw [readPayload, issueOr_next hexec hbusy hlive]
    simpa [herr, byteResult_ne, State.resultByte] using hread go

/-- The payload of a counted file, from a fresh reader. -/
theorem readPayload_file {d : List Byte} {len : LenTable} {code : CodeTable}
    (hheader : fileHeader (countFile d) = .tables len t code) (h : s.fph = .rPayload) (ht : s.tree = some t)
    (hbr : s.br = ⟨0x00#8, 0, false⟩) {rest : List Byte} (hinq : s.inq = payload code d ++ rest) {fuel : Nat}
    (hfuel : d.length < fuel) (got : List Byte) :
    ∃ u, (∀ go : List Byte → Bool → State → Procedure α, readPayload fuel got s go = go (got.reverse ++ d) false u) ∧
      u.cfg = s.cfg ∧ u.eos = s.eos ∧ u.fph = .rEntry ∧ u.inq = rest := by
  obtain ⟨hrecon, rfl⟩ := recon_of_fileHeader hheader
  have hopen : s.br.closed = false := by rw [hbr]
  have hahead : s.bitsAhead = payloadBits (codesOf t) d ++
      (List.replicate (padCount (payloadBits (codesOf t) d).length) false ++ bitsOfBytes rest) := by
    rw [bitsAhead_of_open hopen, hbr, hinq, bitsOfBytes_append, bitsOfBytes_payload, List.append_assoc]
    rfl
  have hpad : padCount (payloadBits (codesOf t) d).length ≤ 7 := by unfold padCount; omega
  exact readPayload_eq (recon_ok hrecon).1 (sentinel_mem_labels hheader) (fun b => byteSymbol_mem_labels hheader) h ht
    hopen (by simp [hbr]) (by simpa using hpad) hahead hfuel got

end

/-! ### Extraction (R234) -/

section
variable {c : Config} {s : State} {rest : List Byte}

theorem pathAllowed.ne_nul {path : List Byte} (h : pathAllowed c path) : ∀ b ∈ path, b ≠ 0x00#8 :=
  fun b hb => (h b hb).1

/-- The turn of the loop that reads a directory's block. -/
theorem extractLoop_dir (h : s.fph = .rEntry) {path : List Byte} (hpath : pathAllowed s.cfg path)
    (hinq : s.inq = s.cfg.tagDir :: pathField path ++ rest) {fuel : Nat} (hfuel : path.length < fuel) (turns : Nat)
    (got : List Extracted) : ∃ u, extractLoop fuel (turns + 1) got s =
        extractLoop fuel turns (.directory path :: got) u ∧
      u.cfg = s.cfg ∧ u.eos = s.eos ∧ u.fph = .rEntry ∧ u.inq = rest := by
  refine ⟨{ s.completed with result := 0x100#32, inq := rest, fph := .rEntry }, ?_, rfl, rfl, rfl, rfl⟩
  rw [extractLoop, issueOr_next (exec_arEntry_dir h hinq) rfl (by simp)]
  exact readPath_eq hpath.ne_nul (.inl rfl) rfl hfuel [] _

/-- The turn of the loop that reads a file's block. -/
theorem extractLoop_file (hcfg : s.cfg.Valid) (h : s.fph = .rEntry) {path : List Byte} (hpath : pathAllowed s.cfg path)
    {d : List Byte} {len : LenTable} {t : CodeTree} {code : CodeTable}
    (hheader : fileHeader (countFile d) = .tables len t code)
    (hinq : s.inq = s.cfg.tagFile :: pathField path ++ len.toList ++ payload code d ++ rest) {fuel : Nat}
    (hfuel : path.length < fuel) (hfuel' : d.length < fuel) (turns : Nat) (got : List Extracted) :
    ∃ u, extractLoop fuel (turns + 1) got s = extractLoop fuel turns (.file path d :: got) u ∧
      u.cfg = s.cfg ∧ u.eos = s.eos ∧ u.fph = .rEntry ∧ u.inq = rest := by
  obtain ⟨-, -, htags, -⟩ := hcfg
  obtain ⟨hrecon, -⟩ := recon_of_fileHeader hheader
  have hinq' : s.inq = s.cfg.tagFile :: (pathField path ++ (len.toList ++ (payload code d ++ rest))) := by
    simpa using hinq
  obtain ⟨u, hread, hu⟩ := readPayload_file (α := List Extracted) hheader (s := { s.completed with
    result := 0x100#32, inq := payload code d ++ rest, len := len, tree := some t, br := ⟨0x00#8, 0, false⟩
    fph := .rPayload }) rfl rfl rfl rfl hfuel' []
  refine ⟨u, ?_, hu⟩
  rw [extractLoop, issueOr_next (exec_arEntry_file h hinq' htags) rfl (by simp)]
  refine (readPath_eq hpath.ne_nul (.inr rfl) rfl hfuel [] _).trans ?_
  exact (issueOr_next (exec_arFilehdr_ok rfl rfl hrecon) rfl (by simp)).trans (hread _)

/-- A bound on the bytes of a field that is enough for an entry. -/
def ArchiveEntry.Fits (fuel : Nat) (e : ArchiveEntry) : Prop :=
  e.path.length < fuel ∧ ∀ d, e.content = some d → d.length < fuel

/-- The turn of the loop that reads an entry's block. -/
theorem extractLoop_entry (hcfg : s.cfg.Valid) (h : s.fph = .rEntry) {e : ArchiveEntry}
    (hpath : pathAllowed s.cfg e.path) {block : List Byte} (hblock : blockOf s.cfg e = some block)
    (hinq : s.inq = block ++ rest) {fuel : Nat} (hfits : e.Fits fuel) (turns : Nat) (got : List Extracted) :
    ∃ u, extractLoop fuel (turns + 1) got s = extractLoop fuel turns (extractedOf e :: got) u ∧
      u.cfg = s.cfg ∧ u.eos = s.eos ∧ u.fph = .rEntry ∧ u.inq = rest := by
  obtain ⟨hlength, hcontentLength⟩ := hfits
  cases hcontent : e.content with
  | none =>
    simp only [blockOf, hcontent, Option.some.injEq] at hblock
    simp only [extractedOf, hcontent]
    exact extractLoop_dir h hpath (by rw [hinq, ← hblock]) hlength turns got
  | some d =>
    simp only [blockOf, hcontent] at hblock
    simp only [extractedOf, hcontent]
    split at hblock <;> cases hblock
    case h_1 hheader =>
      exact extractLoop_file hcfg h hpath hheader hinq hlength (hcontentLength d hcontent) turns got

theorem extractLoop_blocks (es : List ArchiveEntry) (hcfg : s.cfg.Valid) (h : s.fph = .rEntry)
    (hpath : ∀ e ∈ es, pathAllowed s.cfg e.path) (hblocks : blocksOf s.cfg es = some s.inq) (heos : s.eos = true)
    {fuel : Nat} (hfits : ∀ e ∈ es, e.Fits fuel) {turns : Nat} (hturns : es.length < turns) (got : List Extracted) :
    ∃ t, extractLoop fuel turns got s = .finished (got.reverse ++ es.map extractedOf) t ∧ t.fph = .idle := by
  obtain ⟨turns, rfl⟩ := Nat.exists_eq_add_one_of_ne_zero (Nat.ne_zero_of_lt hturns)
  induction es generalizing s turns got with
  | nil =>
    have hinq : s.inq = [] := (Option.some.inj hblocks).symm
    rw [extractLoop, issueOr_next (exec_arEntry_ended h hinq heos) rfl (by simp), if_pos rfl, List.map_nil,
      List.append_nil]
    exact issueOr_arEnd (.inr rfl) _
  | cons e es ih =>
    obtain ⟨hpe, hpes⟩ := List.forall_mem_cons.mp hpath
    obtain ⟨hfe, hfes⟩ := List.forall_mem_cons.mp hfits
    obtain ⟨turns, rfl⟩ := Nat.exists_eq_add_one_of_ne_zero (n := turns) (by simp at hturns; omega)
    rw [blocksOf] at hblocks
    split at hblocks
    case h_2 => cases hblocks
    case h_1 x y hx hy =>
      obtain ⟨u, hturn, hcfg', heos', hphase, hrest⟩ :=
        extractLoop_entry hcfg h hpe hx (Option.some.inj hblocks).symm hfe (turns + 1) got
      rw [← hcfg'] at hcfg hpes hy
      obtain ⟨t, hloop, hidle⟩ := ih hcfg hphase hpes (hrest ▸ hy) (heos'.trans heos) hfes (extractedOf e :: got) turns
        (by simpa using hturns)
      exact ⟨t, by rw [hturn, hloop]; simp, hidle⟩

end

/-- The manifest holds no `MEND` (R203). -/
theorem mend_notMem_manifestOf {c : Config} (hc : c.Valid) {es : List ArchiveEntry}
    (hpath : ∀ e ∈ es, pathAllowed c e.path) : c.mend ∉ manifestOf es := by
  obtain ⟨-, -, -, hmend, -⟩ := hc
  simp only [manifestOf, pathField, List.mem_flatMap, List.mem_append, List.mem_singleton, not_exists, not_and, not_or]
  exact fun e he => ⟨fun hmem => (hpath e he _ hmem).2 rfl, hmend⟩

/-- Some bound is enough for every entry of a list, and so is every larger one. -/
theorem exists_fits (es : List ArchiveEntry) : ∃ n, ∀ fuel, n ≤ fuel → ∀ e ∈ es, e.Fits fuel := by
  induction es with
  | nil => exact ⟨0, by simp⟩
  | cons e es ih =>
    obtain ⟨n, hn⟩ := ih
    refine ⟨n + e.path.length + (e.content.getD []).length + 1, fun fuel hfuel => List.forall_mem_cons.mpr
      ⟨⟨by omega, fun d hd => ?_⟩, hn fuel (by omega)⟩⟩
    rw [hd, Option.getD_some] at hfuel
    omega

/-- Settles O59: magic and manifest are read past, and each turn of the loop reads one block of R190. -/
theorem extractionReproducesTheArchive : Obligations.ExtractionReproducesTheArchive := by
  unfold Obligations.ExtractionReproducesTheArchive
  intro s es bytes hidle hvalid hpath harchive hinq heos
  obtain ⟨blocks, hblocks, rfl⟩ := Option.map_eq_some_iff.mp harchive
  obtain ⟨n, hfits⟩ := exists_fits es
  refine ⟨n + es.length + 1, fun fuel hfuel => ?_⟩
  have hinq' : s.inq = s.cfg.magic0 :: s.cfg.magic1 :: (manifestOf es ++ s.cfg.mend :: blocks) := by simpa using hinq
  obtain ⟨t, hloop, hend⟩ := extractLoop_blocks (s := { s.completed with result := 0#32, inq := blocks, fph := .rEntry })
    es hvalid rfl hpath hblocks heos (hfits fuel (by omega)) (by omega : es.length < fuel) []
  refine ⟨t, ?_, hend⟩
  have hskip := exec_arSkipm_found (s := { s.completed with
    inq := manifestOf es ++ s.cfg.mend :: blocks, fph := .rManifest }) rfl rfl (mend_notMem_manifestOf hvalid hpath)
  rw [extract, issueOr_next (exec_arMagic_ok hidle hinq') rfl (by simp)]
  exact (issueOr_next hskip rfl (by simp)).trans hloop

/-! ### Preview (R233) -/

section
variable {s : State}

/-- The turns of the loop that read one path of the manifest. -/
theorem previewLoop_path {path rest : List Byte} (hmend : s.cfg.mend ≠ 0x00#8) (h : s.fph = .rManifest)
    (hpath : pathAllowed s.cfg path) (hinq : s.inq = pathField path ++ rest) (fuel : Nat) (got : List Byte)
    (paths : List (List Byte)) : previewLoop (fuel + (pathField path).length) got paths s =
      previewLoop fuel [] ((got.reverse ++ path) :: paths)
        { s.completed with result := 0x100#32, inq := rest } := by
  induction path generalizing s got with
  | nil =>
    have hexec := exec_arMbyte_nul h hinq hmend.symm
    rw [List.append_nil]
    exact issueOr_next hexec rfl (by simp [h])
  | cons b path ih =>
    obtain ⟨⟨hnul, hb⟩, hrest⟩ := List.forall_mem_cons.mp hpath
    have hexec := exec_arMbyte_byte h hinq hb hnul
    refine (issueOr_next hexec rfl (by simp [h])).trans ?_
    refine (if_neg (byteResult_ne (by decide) b)).trans ((if_neg (byteResult_ne (by decide) b)).trans ?_)
    refine (ih (s := { s.completed with result := b.setWidth 32, inq := pathField path ++ rest }) hmend h hrest rfl
      _).trans ?_
    simp [State.resultByte]

/-- The turns of the loop that read the whole manifest, with its terminator, and end the run. -/
theorem previewLoop_manifest (es : List ArchiveEntry) {rest : List Byte} (hmend : s.cfg.mend ≠ 0x00#8)
    (h : s.fph = .rManifest) (hpath : ∀ e ∈ es, pathAllowed s.cfg e.path)
    (hinq : s.inq = manifestOf es ++ s.cfg.mend :: rest) (fuel : Nat) (paths : List (List Byte)) :
    ∃ t, previewLoop (fuel + 1 + (manifestOf es).length) [] paths s =
      .finished (paths.reverse ++ es.map ArchiveEntry.path) t ∧ t.fph = .idle := by
  induction es generalizing s paths with
  | nil =>
    rw [List.map_nil, List.append_nil, show manifestOf [] = [] from rfl, List.length_nil, Nat.add_zero, previewLoop,
      issueOr_next (exec_arMbyte_mend h hinq) rfl (by simp), if_pos rfl]
    exact issueOr_arEnd (.inl rfl) _
  | cons e es ih =>
    obtain ⟨hpe, hpes⟩ := List.forall_mem_cons.mp hpath
    have hcons : manifestOf (e :: es) = pathField e.path ++ manifestOf es := rfl
    rw [hcons, List.append_assoc] at hinq
    have hlength : fuel + 1 + (manifestOf (e :: es)).length =
        fuel + 1 + (manifestOf es).length + (pathField e.path).length := by
      rw [hcons, List.length_append]; omega
    obtain ⟨t, hloop, hidle⟩ := ih (s := { s.completed with
      result := 0x100#32, inq := manifestOf es ++ s.cfg.mend :: rest }) hmend h hpes rfl (e.path :: paths)
    exact ⟨t, by rw [hlength, previewLoop_path hmend h hpe hinq]; simpa using hloop, hidle⟩

end

/-- Settles O60: the loop takes one turn a byte of the manifest, and one for its terminator. -/
theorem previewListsThePaths : Obligations.PreviewListsThePaths := by
  unfold Obligations.PreviewListsThePaths
  intro s es rest hidle hvalid hpath hinq
  obtain ⟨-, -, -, hmend, -⟩ := hvalid
  refine ⟨1 + (manifestOf es).length, fun fuel hfuel => ?_⟩
  obtain ⟨extra, rfl⟩ := Nat.exists_eq_add_of_le' hfuel
  have hinq' : s.inq = s.cfg.magic0 :: s.cfg.magic1 :: (manifestOf es ++ s.cfg.mend :: rest) := by simpa using hinq
  obtain ⟨t, hloop, hend⟩ := previewLoop_manifest (s := { s.completed with
    inq := manifestOf es ++ s.cfg.mend :: rest, fph := .rManifest }) es hmend rfl hpath rfl extra []
  refine ⟨t, ?_, hend⟩
  rw [preview, issueOr_next (exec_arMagic_ok hidle hinq') rfl (by simp), ← Nat.add_assoc]
  exact hloop

end Sys2Proof.Machine
